-- ==== Sys2Proof/Word.lean ====
section
/-! DEFINITION. The machine's bit-vector types (`spec/00_scope.md` R5, R7; `spec/30_encoding.md` R51). -/

namespace Sys2Proof

/-- A register-bank word, a register offset, or the value driven on the interrupt line: 32 bits
(R7 `REG_WIDTH`, R26). -/
abbrev Word := BitVec 32

/-- One byte of the pattern cache or of the DMA target space. -/
abbrev Byte := BitVec 8

/-- A destination address of the DMA port: 64 bits (R7 `DMA_ADDR_WIDTH`). -/
abbrev Addr := BitVec 64

/-- The canonical operation word `kind[65:64] ++ offset[63:32] ++ wdata[31:0]` (R51, R52). -/
abbrev OpWord := BitVec 66

end Sys2Proof
end

