-- ==== Sys2Proof/Config.lean ====
section
/-! DEFINITION. What the spec leaves to an implementation or to the environment: the open parameters
of `spec/00_scope.md` R7, the numeric error codes of `spec/60_exceptions.md` R124, and the free
values. -/

namespace Sys2Proof

/-- The six error kinds, and no others (R116). -/
inductive ErrorKind where
  | invalidAddress | invalidState | invalidConfig | resourceExhausted | dmaFailure
  | consistencyViolation
  deriving DecidableEq, Repr

namespace Config

/-- FREE VALUE. The environment's answer to the k-th undecided draw of a `MemWrite`: `true` is `ok`
(R99; `spec/93_implementation_defined.md` U6; log entry 8). -/
opaque memWriteAnswer : Nat → Bool

/-- FREE VALUE. The k-th unspecified byte: what a failed `MemWrite` leaves in its range (R42, U7; log
entry 9), and a byte taken beyond the end of a buffer (log entry 10). -/
opaque freeByte : Nat → Byte

/-- The open parameters of R7 as plain data, held in the state so that one model covers every value
(log entry 7). `N_DMA_CHANNELS` is the length of the channel table (R25). -/
structure Params where
  /-- `MAX_CACHE_BYTES`; `none` is unbounded (D14). -/
  maxCacheBytes : Option Nat
  /-- The sizes for which `ENV_ALLOC_OK(n)` is false (D15). -/
  allocRefused : List Nat
  /-- `ENV_TIMER_CREATE_OK` (D15). -/
  timerCreateOk : Bool
  /-- `TIMER_LATENESS` in nanoseconds (D2). -/
  timerLateness : Nat
  deriving DecidableEq, Repr

/-- The default values of R7. -/
def Params.default : Params :=
  { maxCacheBytes := none, allocRefused := [], timerCreateOk := true, timerLateness := 0 }

/-- `ERR_CODE(kind)`: a negative integer per kind, distinct for distinct kinds, the values not fixed
(R124, D18). -/
structure ErrCodes where
  code : ErrorKind → Int
  code_neg : ∀ k, code k < 0
  code_injective : ∀ j k, code j = code k → j = k

end Config

end Sys2Proof
end

