-- ==== Sys2Proof/Syntax.lean ====
section
/-! DEFINITION. The operations of the block as one inductive, one constructor per row of
`spec/opcode_table.json` (`spec/30_encoding.md` R60), and the fixed sets of names they use. -/

namespace Sys2Proof

/-- The twelve named registers of the window (`spec/10_state.md` R9). -/
inductive RegName where
  | enable | outAddrLo0 | outAddrHi0 | outAddrLo1 | outAddrHi1 | outFormat | outWidth | outHeight
  | outStatus | vvalidDuration | vblankDuration | irqReg
  deriving DecidableEq, Repr

/-- The two one-shot timers: `fs` is the frame-start timer (id 0), `fe` the frame-end timer (id 1)
(`spec/10_state.md` R23, `spec/30_encoding.md` R52). -/
inductive TimerId where
  | fs | fe
  deriving DecidableEq, Repr

/-- An operation of the block (R60). `wr…` are host writes, `rd…` host reads, `ev…` timer events.
`int…` are the internal operations of format `INT`, which other operations invoke and which have
no operation word. -/
inductive Instr where
  -- host writes, kind 01
  | wrEnableOn (value : Word)
  | wrEnableOff
  | wrOutAddrLo0 (value : Word)
  | wrOutAddrHi0 (value : Word)
  | wrOutAddrLo1 (value : Word)
  | wrOutAddrHi1 (value : Word)
  | wrOutFormat (value : Word)
  | wrOutWidth (value : Word)
  | wrOutHeight (value : Word)
  | wrOutStatus (value : Word)
  | wrVvalidDuration (value : Word)
  | wrVblankDuration (value : Word)
  | wrIrqReg (value : Word)
  | wrUnnamed (offset value : Word)
  | wrInvalid (offset value : Word)
  -- host reads, kind 00
  | rdEnable
  | rdOutAddrLo0
  | rdOutAddrHi0
  | rdOutAddrLo1
  | rdOutAddrHi1
  | rdOutFormat
  | rdOutWidth
  | rdOutHeight
  | rdOutStatus
  | rdVvalidDuration
  | rdVblankDuration
  | rdIrqReg
  | rdUnnamed (offset : Word)
  | rdInvalid (offset : Word)
  -- timer events, kind 10
  | evFrameStart
  | evFrameEnd
  -- internal operations, format INT
  | intRegisterWrite (offset value : Word)
  | intRegisterRead (offset : Word)
  | intHandlerWrite (offset value : Word)
  | intHandlerRead (offset : Word)
  | intValidateDmaConfig (channel planeCount : Nat)
  | intDmaWrite (channel : Nat) (buffer : List Byte) (length planeIndex : Nat)
  | intMemWrite (addr : Addr) (n : Nat) (bytes : List Byte)
  | intCreateTimers
  | intAllocCache
  | intReleaseCache
  | intArm (t : TimerId) (durUs : Word)
  | intSetIrq (value : Word)
  | intRaiseFlag (m : Word)
  deriving DecidableEq, Repr

end Sys2Proof
end

