-- ==== Sys2Proof/Machine/State.lean ====
section
/-! DEFINITION. The state of the block and of the environment it relies on, as plain data, and its value
after the reset event (`spec/10_state.md`). -/

namespace Sys2Proof.Machine

/-- The status of the frame-timing state machine (R21, R100). -/
inductive Status where
  | idle | frameValid | blanking
  deriving DecidableEq, Repr

/-- A one-shot timer (R23). -/
structure Timer where
  /-- The handle exists. -/
  created : Bool
  /-- Armed and not fired yet. -/
  pending : Bool
  /-- The absolute virtual time it fires at, in nanoseconds; meaningful only while `pending`. -/
  deadline : Nat
  deriving DecidableEq, Repr

/-- The status of a DMA channel (R25, R98). -/
inductive ChanStatus where
  | idle | generating | invalid
  deriving DecidableEq, Repr

/-- A DMA target space: the bytes written so far, in one canonical form (`Memory.wf`). An unlisted
address has no known value (log entry 11). -/
abbrev Memory := List Host.Cell

/-- An entry of the DMA channel descriptor table (R25). The addresses and lengths of its planes are a
view of the bank and of `cacheLen`, "not as separate storage" (R96). -/
structure Channel where
  enable : Bool
  status : ChanStatus
  /-- The environment's address space that belongs to the channel (R41). -/
  space : Memory
  deriving DecidableEq, Repr

/-- What an operation answers: the REG port's response to the host (R51), or an internal operation's
result to the operation that invoked it. -/
inductive Result where
  /-- Success. -/
  | ok
  /-- Success with a value: `rdata` of a read, or the value of the read handler. -/
  | data (value : Word)
  /-- The read handler does not special-case the offset (R68). -/
  | declined
  /-- `fail`, the environment's answer to a `MemWrite` that did not complete cleanly (R99). -/
  | fail
  /-- One of the error kinds (R116). -/
  | error (kind : ErrorKind)
  deriving DecidableEq, Repr

/-- The three places the block logs at (R29). -/
inductive LogEntry where
  /-- `dma_write`, on a copy failure (R97). -/
  | dmaCopyFailed
  /-- The frame-start event, on a DMA failure (R106). -/
  | frameLost
  /-- The frame-end event, on a channel that is not idle (R107). -/
  | dmaNotIdleAtFrameEnd
  deriving DecidableEq, Repr

/-- An operation the environment presents to the block: a host transaction on the REG port or a firing
on the TIMER port, not before a virtual time (log entry 1). -/
structure Request where
  time : Nat
  word : OpWord
  deriving DecidableEq, Repr

/-- The whole state: the block's, the environment's side of its ports, and the outputs. -/
structure State where
  -- the block
  /-- The register bank: 256 words of 32 bits (R8). -/
  bank : Vector Word 256
  /-- The status of the state machine (R21). -/
  status : Status
  /-- "Stop requested" (R22). -/
  stopRequested : Bool
  /-- The frame-start timer (R23). -/
  fs : Timer
  /-- The frame-end timer (R23). -/
  fe : Timer
  /-- The pattern cache (R24). -/
  cache : Option (List Byte)
  /-- The length latched when the cache was allocated (R24). -/
  cacheLen : Nat
  /-- The DMA channel descriptor table; its length is `N_DMA_CHANNELS` (R25). -/
  chan : List Channel
  /-- The value last driven on the interrupt line (R26). -/
  irqLine : Word
  /-- Every value passed to `set_irq`, oldest first (R26). -/
  irqTrace : List Word
  /-- Set by a ConsistencyViolation; nothing clears it (R28). -/
  halted : Bool
  -- the environment
  /-- The virtual time in nanoseconds (R27). -/
  now : Nat
  /-- The operations the environment will present, oldest first (log entry 1). -/
  inbox : List Request
  /-- The results the DMA port will return, oldest first, as far as the environment has decided them
  (log entry 8). -/
  memAnswers : List Bool
  /-- The open parameters (log entry 7). -/
  params : Config.Params
  /-- How many free values have been drawn (log entries 8 to 10). -/
  draws : Nat
  -- outputs
  /-- What the latest operation answered; `none` for an operation that answers nothing (log entry
  13). -/
  result : Option Result
  /-- The log, oldest entry first; no rule reads it (R29). -/
  log : List LogEntry
  deriving DecidableEq, Repr

/-- Why the machine stops. -/
inductive Fault where
  /-- Raised by `exec` and `step` in every state with `halted` set: "the block takes no further step of
  any kind" (R28). Safe: the spec says that no step is enabled. -/
  | halted
  deriving DecidableEq, Repr

/-- Why an operation word or an operation is refused. -/
inductive Refusal where
  /-- Raised by an arm of `exec` that has no meaning yet; no arm is left. Safe. -/
  | notModelled (mnemonic : String)
  /-- Raised by `step` on a word of kind 11, which denotes no operation (R52, R61). Safe. -/
  | noSuchKind
  /-- Raised by `step` on an event word with a timer id of 2 or more (R52, R61). Safe. -/
  | noSuchTimer (id : Word)
  /-- Raised by a timer event of a timer that is not pending: it is not enabled (R108). Safe. -/
  | timerNotPending (t : TimerId)
  /-- Raised by a timer event before the timer's deadline: it is not enabled (R108). Safe. -/
  | timerNotDue (t : TimerId)
  deriving DecidableEq, Repr

/-- A timer after the reset event (R32). The deadline is unspecified; 0 is the model's (log entry
16). -/
def Timer.reset : Timer := { created := false, pending := false, deadline := 0 }

/-- A channel after the reset event (R32). The target space is the environment's and lists nothing. -/
def Channel.reset : Channel := { enable := false, status := .idle, space := [] }

/-- The state after the reset event, device construction (R32, R138). `now`, the inputs and the outputs
are not the block's and are empty (log entries 17 and 18). -/
def State.reset : State :=
  { bank := Vector.replicate 256 0#32
    status := .idle
    stopRequested := false
    fs := Timer.reset
    fe := Timer.reset
    cache := none
    cacheLen := 0
    chan := [Channel.reset]
    irqLine := 0#32
    irqTrace := []
    halted := false
    now := 0
    inbox := []
    memAnswers := []
    params := Config.Params.default
    draws := 0
    result := none
    log := [] }

end Sys2Proof.Machine
end

