-- ==== Sys2Proof/Machine/Flags.lean ====
section
/-! DEFINITION. The fields of the interrupt status word `IRQ_REG` and the conditions computed from it
(`spec/10_state.md` R19; `spec/43_interrupt_line.md` R113, R114). -/

namespace Sys2Proof.Machine

/-- `IRQ_FRAME_START`, bit 0 (R54). -/
def irqFrameStart : Word := 0x1#32

/-- `IRQ_FRAME_END`, bit 1 (R54). -/
def irqFrameEnd : Word := 0x2#32

/-- `IRQ_ERROR`, bit 2 (R54). -/
def irqError : Word := 0x4#32

/-- The reserved bits 31:3 (R54). -/
def irqReserved : Word := 0xFFFFFFF8#32

/-- The shift of each flag's mask (R19). -/
def irqFrameStartShift : Nat := 0
def irqFrameEndShift : Nat := 1
def irqErrorShift : Nat := 2
def irqReservedShift : Nat := 3

/-- A field of the interrupt status word, by its mask and shift (R19). -/
def irqField (mask : Word) (shift : Nat) (word : Word) : Word := (word &&& mask) >>> shift

/-- The accessor `frame_start` (R19). -/
def frameStartFlag (word : Word) : Bool := irqField irqFrameStart irqFrameStartShift word != 0#32

/-- The accessor `frame_end` (R19). -/
def frameEndFlag (word : Word) : Bool := irqField irqFrameEnd irqFrameEndShift word != 0#32

/-- The accessor `error` (R19). -/
def errorFlag (word : Word) : Bool := irqField irqError irqErrorShift word != 0#32

/-- The reserved field (R19). -/
def reservedBits (word : Word) : Word := irqField irqReserved irqReservedShift word

/-- The flags whose change by a host write is forwarded to the line: bit 0 and bit 1 (R113, D8). -/
def irqForwardMask : Word := irqFrameStart ||| irqFrameEnd

/-- A host write of `new` over `old` is forwarded to the line (R113). -/
def irqForwards (old new : Word) : Bool := (old ^^^ new) &&& irqForwardMask != 0#32

/-- A line driven with `value` is asserted (R114). -/
def lineAsserted (value : Word) : Bool := value != 0#32

end Sys2Proof.Machine
end

