-- ==== Sys2Proof/Machine/Window.lean ====
section
/-! DEFINITION. The register window: its bound, the alignment test, the offsets of the named
registers and the bank index of an offset (`spec/10_state.md` R8, R9; `spec/20_memory.md` R34, R36,
R38). -/

namespace Sys2Proof.Machine

/-- `IO_WINDOW_SIZE`, in bytes (R7, R34). -/
def ioWindowSize : Nat := 0x400

/-- `ACCESS_SIZE`, in bytes: every access moves one whole aligned word (R35). -/
def accessSize : Nat := 4

/-- `REG_COUNT` (R7, R8). -/
def regCount : Nat := 256

/-- The bits of an offset that must be 0 for the access to be admitted: bits 31:10 (inside the
window) and bits 1:0 (aligned) (R36). -/
def admissionMask : Word := 0xFFFFFC03#32

/-- The admission test of R36: inside the window and aligned. -/
def validOffset (off : Word) : Bool := off &&& admissionMask == 0#32

/-- The offset of a named register (R9, the "authoritative layout"). -/
def regOffset : RegName → Word
  | .enable => 0x00#32
  | .outAddrLo0 => 0x08#32
  | .outAddrHi0 => 0x0C#32
  | .outAddrLo1 => 0x10#32
  | .outAddrHi1 => 0x14#32
  | .outFormat => 0x18#32
  | .outWidth => 0x1C#32
  | .outHeight => 0x20#32
  | .outStatus => 0x24#32
  | .vvalidDuration => 0x28#32
  | .vblankDuration => 0x2C#32
  | .irqReg => 0x30#32

/-- The named registers in the order of the window (R9). -/
def namedRegs : List RegName :=
  [.enable, .outAddrLo0, .outAddrHi0, .outAddrLo1, .outAddrHi1, .outFormat, .outWidth, .outHeight,
   .outStatus, .vvalidDuration, .vblankDuration, .irqReg]

/-- The named register at an offset; `none` for 0x04, 0x34 and above, and unaligned offsets
(R20, R38). -/
def regAt (off : Word) : Option RegName := namedRegs.find? fun r => regOffset r == off

/-- An admitted offset that carries no named register (R20). -/
def unnamedOffset (off : Word) : Bool := validOffset off && (regAt off).isNone

/-- The index of an offset's word among the 256 words of the bank (R8). -/
def bankIndex (off : Word) : Nat := off.toNat / accessSize

end Sys2Proof.Machine
end

