-- ==== Sys2Proof/Machine/Operands.lean ====
section
/-! DEFINITION. Operand assembly and arithmetic: the constants of `spec/00_scope.md` R7 and the
computations of `spec/30_encoding.md` R55 to R59. -/

namespace Sys2Proof.Machine

/-- `MAX_PLANES` (R7). -/
def maxPlanes : Nat := 2

/-- `PRIMARY_CHANNEL` (R7, D12). -/
def primaryChannel : Nat := 0

/-- `SENTINEL`, the byte every cell of the pattern cache holds (R7, R24). -/
def sentinel : Byte := 0xDE#8

/-- `US_TO_NS` (R7). -/
def usToNs : Nat := 1000

/-- The first number that is no address of the DMA target space (R41, R43). -/
def dmaSpaceSize : Nat := 2 ^ 64

/-- `enc`: what `OUT_STATUS` reads (R55). -/
def encStatus : Status → Word
  | .idle => 0#32
  | .frameValid => 1#32
  | .blanking => 2#32

/-- The 64-bit address of a plane from its two words: "hi<<32 + lo" (R56). -/
def planeAddress (hi lo : Word) : Addr := (hi.setWidth 64 <<< 32) + lo.setWidth 64

/-- The deadline of a timer armed at `now` for a duration in microseconds, without wrap (R57). -/
def deadlineAfter (now : Nat) (durUs : Word) : Nat := now + durUs.toNat * usToNs

/-- `bpp`: bytes per pixel of a format selector, undefined for every selector but 0 (R59). -/
def bytesPerPixel (format : Word) : Option Nat := if format = 0#32 then some 1 else none

/-- The size of a frame in bytes, without wrap (R58). -/
def frameSize (width height : Word) (bpp : Nat) : Nat := width.toNat * height.toNat * bpp

/-- The first `length` bytes of a buffer, the free bytes from the `k`-th on where the buffer is shorter
(log entry 10; R97: the block's own copies never read beyond the buffer). -/
def bufferBytes (buffer : List Byte) (length k : Nat) : List Byte :=
  buffer.take length ++ (List.range (length - buffer.length)).map fun i => Config.freeByte (k + i)

end Sys2Proof.Machine
end

