-- ==== Sys2Proof/Machine/Ops.lean ====
section
/-! DEFINITION. The named operations the meanings share: the DMA target space, the register bank, the
timers, the interrupt line, errors, the pattern cache, and the Device Framework's DMA operations
(`spec/41_dma.md`, `spec/43_interrupt_line.md`, `spec/42_frame_sequencer.md` R102 to R105, R110). -/

namespace Sys2Proof.Machine

/-- The outcome of an operation or a step. -/
abbrev Out := Host.Outcome State Fault Refusal

/-! ### The DMA target space (R41) -/

/-- The canonical form: addresses strictly rising, each a 64-bit address. An unlisted address reads as
no value, so no entry equals what an unlisted address reads as. The form is the model's choice (DESIGN
CHOICE, log entry 11); the spec gives the 64-bit bound (R41). -/
abbrev Memory.wf (m : Memory) : Prop :=
  m.Pairwise (fun c d => c.1 < d.1) ∧ ∀ c ∈ m, c.1 < dmaSpaceSize

/-- Store one byte. -/
def Memory.write : Memory → Nat → Byte → Memory
  | [], a, b => [(a, b)]
  | (k, v) :: rest, a, b =>
    if a < k then (a, b) :: (k, v) :: rest
    else if a = k then (a, b) :: rest
    else (k, v) :: Memory.write rest a b

/-- Store a byte string in increasing address order, byte `i` at `a + i` (R37, R42). -/
def Memory.writeBytes (m : Memory) (a : Nat) : List Byte → Memory
  | [] => m
  | b :: bs => Memory.writeBytes (m.write a b) (a + 1) bs

/-- The byte at an address; `none` where nothing has been written. The block never reads the space
(R41): this is for stating what it holds. -/
def Memory.read : Memory → Nat → Option Byte
  | [], _ => none
  | (k, v) :: rest, a => if a = k then some v else Memory.read rest a

/-- The byte at an address of a channel's target space. -/
def State.memRead (s : State) (c a : Nat) : Option Byte := (s.chan[c]?).bind fun ch => ch.space.read a

/-! ### The register bank (R8) -/

/-- `bank[off]`. -/
def State.word (s : State) (off : Word) : Word := (s.bank[bankIndex off]?).getD 0#32

/-- `bank[off] <- v`. -/
def State.setWord (s : State) (off v : Word) : State :=
  { s with bank := s.bank.setIfInBounds (bankIndex off) v }

/-- The bank word of a named register. -/
def State.reg (s : State) (r : RegName) : Word := s.word (regOffset r)

/-- `bank[r] <- v` for a named register. -/
def State.setReg (s : State) (r : RegName) (v : Word) : State := s.setWord (regOffset r) v

/-! ### Results, errors and the halt -/

/-- The operation answers `r` (or nothing). -/
def State.withResult (s : State) (r : Option Result) : State := { s with result := r }

/-- `raise kind`: the operation ends with an error, leaving `s` (R116, R123). -/
def raise (kind : ErrorKind) (s : State) : Result × State := (.error kind, s)

/-- `raise ConsistencyViolation`: `halted <- 1` and nothing else (R28, R109, R122). There is no way
back. -/
def consistencyViolation (s : State) : State := { s with halted := true }

/-- An operation of the block: a halted block takes no step (R28). -/
def whileRunning (op : State → State) (s : State) : Out :=
  if s.halted then .fault .halted else .next (op s)

/-- An operation that answers a result. -/
def answering (op : State → Result × State) (s : State) : Out :=
  whileRunning (fun s => (op s).2.withResult (some (op s).1)) s

/-- An operation that answers nothing. -/
def answerless (op : State → State) (s : State) : Out :=
  whileRunning (fun s => (op s).withResult none) s

/-- `log(msg)` (R29). -/
def State.logged (s : State) (entries : List LogEntry) : State := { s with log := s.log ++ entries }

/-! ### Timers (R23, R105, R110) -/

/-- A timer of the block. -/
def State.timer (s : State) : TimerId → Timer
  | .fs => s.fs
  | .fe => s.fe

/-- Replace a timer. -/
def State.setTimer (s : State) (t : TimerId) (v : Timer) : State :=
  match t with
  | .fs => { s with fs := v }
  | .fe => { s with fe := v }

/-- `arm(t, dur_us)`: an armed timer gets a new deadline (R105, D31). -/
def arm (t : TimerId) (durUs : Word) (s : State) : State :=
  s.setTimer t { s.timer t with pending := true, deadline := deadlineAfter s.now durUs }

/-- `t.pending <- 0`, the first thing a timer event does (R108). -/
def clearPending (t : TimerId) (s : State) : State :=
  s.setTimer t { s.timer t with pending := false }

/-- One round of the loop of `create_timers` (R110). -/
def createTimer (t : TimerId) (s : State) : Result × State :=
  if (s.timer t).created then (.ok, s)
  else if s.params.timerCreateOk then (.ok, s.setTimer t { s.timer t with created := true })
  else raise .resourceExhausted s

/-- `create_timers()`: `FS`, then `FE` (R110). -/
def createTimers (s : State) : Result × State :=
  match createTimer .fs s with
  | (.ok, s1) => createTimer .fe s1
  | failed => failed

/-! ### Interrupt status word and line (R111 to R113) -/

/-- `set_irq(value)`: drive the line, unconditionally (R111). -/
def setIrq (value : Word) (s : State) : State :=
  { s with irqLine := value, irqTrace := s.irqTrace ++ [value] }

/-- `raise_flag(m)`: the one way the block raises an interrupt. OR the mask into `IRQ_REG` and drive the
whole word, changed or not (R112). -/
def raiseFlag (m : Word) (s : State) : State :=
  let raised := s.setReg .irqReg (s.reg .irqReg ||| m)
  setIrq (raised.reg .irqReg) raised

/-- `irq_host_write(value)`: runs before the framework's store, so `IRQ_REG` still holds the old word
(R113). -/
def irqHostWrite (value : Word) (s : State) : Result × State :=
  (.ok, if irqForwards (s.reg .irqReg) value then setIrq value s else s)

/-! ### The pattern cache (R102, R104) -/

/-- `MAX_CACHE_BYTES` and `ENV_ALLOC_OK(n)` admit a buffer of `n` bytes (R102). -/
def allocAdmitted (p : Config.Params) (n : Nat) : Bool :=
  (match p.maxCacheBytes with
   | none => true
   | some bound => n ≤ bound) && !p.allocRefused.contains n

/-- `alloc_cache()` (R102). -/
def allocCache (s : State) : Result × State :=
  if s.cache.isSome then raise .invalidState s
  else
    match bytesPerPixel (s.reg .outFormat) with
    | none => raise .invalidConfig s
    | some bpp =>
      let n := frameSize (s.reg .outWidth) (s.reg .outHeight) bpp
      if allocAdmitted s.params n then
        (.ok, { s with cache := some (List.replicate n sentinel), cacheLen := n })
      else raise .resourceExhausted s

/-- `release_cache()` (R104). -/
def releaseCache (s : State) : State := { s with cache := none, cacheLen := 0 }

/-! ### DMA channels (R95 to R99) -/

/-- `plane_addr(c, p)`: a live view of the bank for the primary channel, 0 for any other (R96). -/
def planeAddr (c p : Nat) (s : State) : Addr :=
  if c = primaryChannel then
    match p with
    | 0 => planeAddress (s.reg .outAddrHi0) (s.reg .outAddrLo0)
    | 1 => planeAddress (s.reg .outAddrHi1) (s.reg .outAddrLo1)
    | _ => 0#64
  else 0#64

/-- `plane_len(c, p)`: `cache_len` while a cache exists, else width times height (R96). -/
def planeLen (c p : Nat) (s : State) : Nat :=
  if c = primaryChannel ∧ p = 0 then
    if s.cache.isSome then s.cacheLen else (s.reg .outWidth).toNat * (s.reg .outHeight).toNat
  else 0

/-- A plane has both a non-zero address and a non-zero length (R25, R95). -/
def planeConfigured (c p : Nat) (s : State) : Bool := planeAddr c p s != 0#64 && planeLen c p s != 0

/-- `validate_dma_config(channel, plane_count)`: reads state and changes none (R95). -/
def validateDmaConfig (channel planeCount : Nat) (s : State) : Result :=
  if s.chan.length ≤ channel then .error .invalidConfig
  else if maxPlanes < planeCount then .error .invalidConfig
  else if (List.range planeCount).all (planeConfigured channel · s) then .ok
  else .error .invalidConfig

/-- The status of a channel (R98). -/
def State.chanStatus (s : State) (c : Nat) : Option ChanStatus := (s.chan[c]?).map Channel.status

/-- `chan[c].status <- st`. -/
def State.setChanStatus (s : State) (c : Nat) (st : ChanStatus) : State :=
  { s with chan := s.chan.modify c fun ch => { ch with status := st } }

/-- The environment's answer to a `MemWrite`: the next one it has decided, else a free value (R99, log
entry 8). -/
def memAnswer (s : State) : Bool :=
  match s.memAnswers with
  | answer :: _ => answer
  | [] => Config.memWriteAnswer s.draws

/-- `MemWrite(addr, n, bytes)` in the space of a channel, `n` the length of `bytes`. A range beyond the
space fails with nothing written and no answer asked; otherwise the range holds `bytes` after `ok` and
unspecified bytes after `fail` (R42, R43, R99). -/
def memWrite (c : Nat) (addr : Addr) (bytes : List Byte) (s : State) : Bool × State :=
  if dmaSpaceSize < addr.toNat + bytes.length then (false, s)
  else
    let after := if memAnswer s then bytes else bufferBytes [] bytes.length s.draws
    (memAnswer s,
     { s with
       chan := s.chan.modify c fun ch => { ch with space := ch.space.writeBytes addr.toNat after }
       memAnswers := s.memAnswers.tail
       draws := s.draws + bytes.length + 1 })

/-- `MemWrite(addr, n, bytes)` taken on its own: in the space of the primary channel (log entry 12), the
answer as a result (R99). -/
def memWriteOnItsOwn (addr : Addr) (n : Nat) (bytes : List Byte) (s : State) : Result × State :=
  let written := memWrite primaryChannel addr (bufferBytes bytes n s.draws)
    { s with draws := s.draws + (n - bytes.length) }
  (if written.1 then .ok else .fail, written.2)

/-- `dma_write(channel, buffer, length, plane_index)`: generating, the copy, idle whatever the copy's
result is; a failure is logged (R97, D35). -/
def dmaWrite (channel : Nat) (buffer : List Byte) (length planeIndex : Nat) (s : State) :
    Result × State :=
  if s.chan.length ≤ channel ∨ maxPlanes ≤ planeIndex then raise .invalidConfig s
  else
    let started := s.setChanStatus channel .generating
    let bytes := bufferBytes buffer length started.draws
    let written := memWrite channel (planeAddr channel planeIndex started) bytes
      { started with draws := started.draws + (length - buffer.length) }
    let ended := written.2.setChanStatus channel .idle
    (if written.1 then .ok else .error .dmaFailure,
     ended.logged (if written.1 then [] else [.dmaCopyFailed]))

/-! ### Result codes (R124) -/

/-- The integer a register write returns to its caller: 0 for success, a negative code for an error;
`none` for a result that is not a register write's. -/
def resultCode (codes : Config.ErrCodes) : Result → Option Int
  | .ok => some 0
  | .error kind => some (codes.code kind)
  | .data _ | .declined | .fail => none

end Sys2Proof.Machine
end

