-- ==== Sys2Proof/Machine/Sequencer.lean ====
section
/-! DEFINITION. The frame-timing state machine: enable, disable and the two timer events
(`spec/42_frame_sequencer.md` R100, R101, R103, R106 to R109). -/

namespace Sys2Proof.Machine

/-- Steps 2 to 4 of `enable()`, after its preconditions (R101). -/
def startGeneration (s : State) : Result × State :=
  match createTimers s with
  | (.ok, s1) =>
    match allocCache s1 with
    | (.ok, s2) =>
      (.ok, arm .fs (s2.reg .vblankDuration) { s2 with stopRequested := false, status := .blanking })
    | failed => failed
  | failed => failed

/-- `enable()`, the handler of a write of a non-zero value to `ENABLE` (R101). -/
def enable (s : State) : Result × State :=
  if s.status ≠ .idle then raise .invalidState s
  else if validateDmaConfig primaryChannel 1 s ≠ .ok then raise .invalidConfig s
  else startGeneration s

/-- `disable()`, the handler of a write of zero to `ENABLE` (R103). -/
def disable (s : State) : Result × State :=
  if s.status = .idle then (.ok, releaseCache s) else (.ok, { s with stopRequested := true })

/-- The stop transition of either timer event: no interrupt, no DMA, no timer armed (R106, R107). -/
def stopGeneration (s : State) : State :=
  { releaseCache { s with status := .idle } with stopRequested := false }

/-- `frame_start_fire()` after `FS.pending <- 0` (R106). The interrupt is delivered before the DMA write
(R45); a DMA failure is logged and absorbed. -/
def frameStartFire (s : State) : State :=
  if s.status ≠ .blanking then consistencyViolation s
  else if s.stopRequested then stopGeneration s
  else
    let raised := raiseFlag irqFrameStart { s with status := .frameValid }
    let armed := arm .fe (raised.reg .vvalidDuration) raised
    let written := dmaWrite primaryChannel (armed.cache.getD []) armed.cacheLen 0 armed
    written.2.logged (if written.1 = .ok then [] else [.frameLost])

/-- The frame-end event's check that the primary channel is idle; it is only logged (R107). -/
def checkDmaIdle (s : State) : State :=
  s.logged (if s.chanStatus primaryChannel = some .idle then [] else [.dmaNotIdleAtFrameEnd])

/-- `frame_end_fire()` after `FE.pending <- 0` (R107). -/
def frameEndFire (s : State) : State :=
  if s.status ≠ .frameValid then consistencyViolation s
  else
    let checked := checkDmaIdle s
    if checked.stopRequested then stopGeneration checked
    else
      let raised := raiseFlag irqFrameEnd { checked with status := .blanking }
      arm .fs (raised.reg .vblankDuration) raised

/-- The event of a timer: enabled exactly when the block is not halted, the timer is pending and its
deadline is reached; its first act is to clear the pending bit (R108). -/
def timerEvent (t : TimerId) (fire : State → State) (s : State) : Out :=
  if s.halted then .fault .halted
  else if !(s.timer t).pending then .refused (.timerNotPending t)
  else if s.now < (s.timer t).deadline then .refused (.timerNotDue t)
  else answerless (fun s => fire (clearPending t s)) s

end Sys2Proof.Machine
end

