-- ==== Sys2Proof/Machine/Framework.lean ====
section
/-! DEFINITION. The Device Framework's register dispatch and the Pattern Generator's two handlers
(`spec/40_register_access.md` R64 to R68). -/

namespace Sys2Proof.Machine

/-- `handler_write(offset, value)` (R67). -/
def handlerWrite (off v : Word) (s : State) : Result × State :=
  if off = regOffset .enable then
    if v ≠ 0#32 then enable s else disable s
  else if off = regOffset .irqReg then irqHostWrite v s
  else (.ok, s)

/-- `handler_read(offset)` (R68). -/
def handlerRead (off : Word) (s : State) : Result :=
  if off = regOffset .outStatus then .data (encStatus s.status) else .declined

/-- `register_write(offset, value)`: the single funnel for every host write. The raw value is stored
only when the handler succeeds (R64). -/
def registerWrite (off v : Word) (s : State) : Result × State :=
  if validOffset off then
    match handlerWrite off v s with
    | (.ok, s1) => (.ok, s1.setWord off v)
    | failed => failed
  else raise .invalidAddress s

/-- `register_read(offset)`: the single funnel for every host read; it changes no state (R65, R39). -/
def registerRead (off : Word) (s : State) : Result :=
  if validOffset off then
    match handlerRead off s with
    | .declined => .data (s.word off)
    | special => special
  else .error .invalidAddress

/-- A host write of the REG port. -/
def hostWrite (off v : Word) (s : State) : Out := answering (registerWrite off v) s

/-- A host read of the REG port. -/
def hostRead (off : Word) (s : State) : Out := answering (fun s => (registerRead off s, s)) s

end Sys2Proof.Machine
end

