-- ==== Sys2Proof/Machine/Internal.lean ====
section
/-! DEFINITION. The meanings of the internal operations, format `INT`, each taken on its own: its effect
on the state and what it answers the operation that invokes it (log entry 6). -/

namespace Sys2Proof.Machine

/-- `INT.register_write` (R64). -/
def execIntRegisterWrite (offset value : Word) (s : State) : Out :=
  answering (registerWrite offset value) s

/-- `INT.register_read` (R65). -/
def execIntRegisterRead (offset : Word) (s : State) : Out :=
  answering (fun s => (registerRead offset s, s)) s

/-- `INT.handler_write` (R67). -/
def execIntHandlerWrite (offset value : Word) (s : State) : Out :=
  answering (handlerWrite offset value) s

/-- `INT.handler_read` (R68). -/
def execIntHandlerRead (offset : Word) (s : State) : Out :=
  answering (fun s => (handlerRead offset s, s)) s

/-- `INT.validate_dma_config` (R95). -/
def execIntValidateDmaConfig (channel planeCount : Nat) (s : State) : Out :=
  answering (fun s => (validateDmaConfig channel planeCount s, s)) s

/-- `INT.dma_write` (R97). -/
def execIntDmaWrite (channel : Nat) (buffer : List Byte) (length planeIndex : Nat) (s : State) : Out :=
  answering (dmaWrite channel buffer length planeIndex) s

/-- `INT.MemWrite` (R99), in the space of the primary channel (log entry 12). -/
def execIntMemWrite (addr : Addr) (n : Nat) (bytes : List Byte) (s : State) : Out :=
  answering (memWriteOnItsOwn addr n bytes) s

/-- `INT.create_timers` (R110). -/
def execIntCreateTimers (s : State) : Out := answering createTimers s

/-- `INT.alloc_cache` (R102). -/
def execIntAllocCache (s : State) : Out := answering allocCache s

/-- `INT.release_cache` (R104). -/
def execIntReleaseCache (s : State) : Out := answerless releaseCache s

/-- `INT.arm` (R105). -/
def execIntArm (t : TimerId) (durUs : Word) (s : State) : Out := answerless (arm t durUs) s

/-- `INT.set_irq` (R111). -/
def execIntSetIrq (value : Word) (s : State) : Out := answerless (setIrq value) s

/-- `INT.raise_flag` (R112). -/
def execIntRaiseFlag (m : Word) (s : State) : Out := answerless (raiseFlag m) s

end Sys2Proof.Machine
end

