-- ==== Sys2Proof/Machine/RegisterRead.lean ====
section
/-! DEFINITION. The meanings of the host reads. Each is `register_read` at one offset
(`spec/40_register_access.md` R65) and changes nothing but the answer. -/

namespace Sys2Proof.Machine

/-- `RD.ENABLE` (R81). The last value a successful write stored; no running indicator. -/
def execRdEnable (s : State) : Out := hostRead (regOffset .enable) s

/-- `RD.OUT_ADDR_LO_0` (R82). -/
def execRdOutAddrLo0 (s : State) : Out := hostRead (regOffset .outAddrLo0) s

/-- `RD.OUT_ADDR_HI_0` (R83). -/
def execRdOutAddrHi0 (s : State) : Out := hostRead (regOffset .outAddrHi0) s

/-- `RD.OUT_ADDR_LO_1` (R84). -/
def execRdOutAddrLo1 (s : State) : Out := hostRead (regOffset .outAddrLo1) s

/-- `RD.OUT_ADDR_HI_1` (R85). -/
def execRdOutAddrHi1 (s : State) : Out := hostRead (regOffset .outAddrHi1) s

/-- `RD.OUT_FORMAT` (R86). -/
def execRdOutFormat (s : State) : Out := hostRead (regOffset .outFormat) s

/-- `RD.OUT_WIDTH` (R87). -/
def execRdOutWidth (s : State) : Out := hostRead (regOffset .outWidth) s

/-- `RD.OUT_HEIGHT` (R88). -/
def execRdOutHeight (s : State) : Out := hostRead (regOffset .outHeight) s

/-- `RD.OUT_STATUS` (R89). Answered from `status`, never from the bank. -/
def execRdOutStatus (s : State) : Out := hostRead (regOffset .outStatus) s

/-- `RD.VVALID_DURATION` (R90). -/
def execRdVvalidDuration (s : State) : Out := hostRead (regOffset .vvalidDuration) s

/-- `RD.VBLANK_DURATION` (R91). -/
def execRdVblankDuration (s : State) : Out := hostRead (regOffset .vblankDuration) s

/-- `RD.IRQ_REG` (R92). Reading clears nothing. -/
def execRdIrqReg (s : State) : Out := hostRead (regOffset .irqReg) s

/-- `RD.UNNAMED` (R93): the stored word. -/
def execRdUnnamed (offset : Word) (s : State) : Out := hostRead offset s

/-- `RD.INVALID` (R94): InvalidAddress, no data. -/
def execRdInvalid (offset : Word) (s : State) : Out := hostRead offset s

end Sys2Proof.Machine
end

