-- ==== Sys2Proof/Machine/RegisterWrite.lean ====
section
/-! DEFINITION. The meanings of the host writes. Each is `register_write` at one offset
(`spec/40_register_access.md` R64); what the offset does beyond the store is the write handler's. -/

namespace Sys2Proof.Machine

/-- `WR.ENABLE.ON` (R101): a non-zero value requests generation. -/
def execWrEnableOn (value : Word) (s : State) : Out := hostWrite (regOffset .enable) value s

/-- `WR.ENABLE.OFF` (R103): zero requests a stop at the next timer boundary. -/
def execWrEnableOff (s : State) : Out := hostWrite (regOffset .enable) 0#32 s

/-- `WR.OUT_ADDR_LO_0` (R69). -/
def execWrOutAddrLo0 (value : Word) (s : State) : Out := hostWrite (regOffset .outAddrLo0) value s

/-- `WR.OUT_ADDR_HI_0` (R70). -/
def execWrOutAddrHi0 (value : Word) (s : State) : Out := hostWrite (regOffset .outAddrHi0) value s

/-- `WR.OUT_ADDR_LO_1` (R71). -/
def execWrOutAddrLo1 (value : Word) (s : State) : Out := hostWrite (regOffset .outAddrLo1) value s

/-- `WR.OUT_ADDR_HI_1` (R72). -/
def execWrOutAddrHi1 (value : Word) (s : State) : Out := hostWrite (regOffset .outAddrHi1) value s

/-- `WR.OUT_FORMAT` (R73). -/
def execWrOutFormat (value : Word) (s : State) : Out := hostWrite (regOffset .outFormat) value s

/-- `WR.OUT_WIDTH` (R74). -/
def execWrOutWidth (value : Word) (s : State) : Out := hostWrite (regOffset .outWidth) value s

/-- `WR.OUT_HEIGHT` (R75). -/
def execWrOutHeight (value : Word) (s : State) : Out := hostWrite (regOffset .outHeight) value s

/-- `WR.OUT_STATUS` (R76). Accepted; the stored word is never read. -/
def execWrOutStatus (value : Word) (s : State) : Out := hostWrite (regOffset .outStatus) value s

/-- `WR.VVALID_DURATION` (R77). -/
def execWrVvalidDuration (value : Word) (s : State) : Out := hostWrite (regOffset .vvalidDuration) value s

/-- `WR.VBLANK_DURATION` (R78). -/
def execWrVblankDuration (value : Word) (s : State) : Out := hostWrite (regOffset .vblankDuration) value s

/-- `WR.IRQ_REG` (R113). The line is driven when bit 0 or bit 1 changes. -/
def execWrIrqReg (value : Word) (s : State) : Out := hostWrite (regOffset .irqReg) value s

/-- `WR.UNNAMED` (R79): plain storage at an admitted offset with no named register. -/
def execWrUnnamed (offset value : Word) (s : State) : Out := hostWrite offset value s

/-- `WR.INVALID` (R80): InvalidAddress, nothing changed. -/
def execWrInvalid (offset value : Word) (s : State) : Out := hostWrite offset value s

end Sys2Proof.Machine
end

