-- ==== Sys2Proof/Machine/TimerEvent.lean ====
section
/-! DEFINITION. The meanings of the two timer events (`spec/42_frame_sequencer.md` R106 to R109). -/

namespace Sys2Proof.Machine

/-- `EV.FRAME_START` (R106): the end of blanking; a frame starts, or a requested stop is taken. -/
def execEvFrameStart (s : State) : Out := timerEvent .fs frameStartFire s

/-- `EV.FRAME_END` (R107): the end of frame-valid; blanking starts, or a requested stop is taken. -/
def execEvFrameEnd (s : State) : Out := timerEvent .fe frameEndFire s

end Sys2Proof.Machine
end

