-- ==== Sys2Proof/Machine/Dispatch.lean ====
section
/-! DEFINITION. One arm per operation, each a call of its meaning. -/

namespace Sys2Proof.Machine

def exec (i : Instr) (s : State) : Host.Outcome State Fault Refusal :=
  match i with
  | .wrEnableOn value => Sys2Proof.Machine.execWrEnableOn value s
  | .wrEnableOff => Sys2Proof.Machine.execWrEnableOff s
  | .wrOutAddrLo0 value => Sys2Proof.Machine.execWrOutAddrLo0 value s
  | .wrOutAddrHi0 value => Sys2Proof.Machine.execWrOutAddrHi0 value s
  | .wrOutAddrLo1 value => Sys2Proof.Machine.execWrOutAddrLo1 value s
  | .wrOutAddrHi1 value => Sys2Proof.Machine.execWrOutAddrHi1 value s
  | .wrOutFormat value => Sys2Proof.Machine.execWrOutFormat value s
  | .wrOutWidth value => Sys2Proof.Machine.execWrOutWidth value s
  | .wrOutHeight value => Sys2Proof.Machine.execWrOutHeight value s
  | .wrOutStatus value => Sys2Proof.Machine.execWrOutStatus value s
  | .wrVvalidDuration value => Sys2Proof.Machine.execWrVvalidDuration value s
  | .wrVblankDuration value => Sys2Proof.Machine.execWrVblankDuration value s
  | .wrIrqReg value => Sys2Proof.Machine.execWrIrqReg value s
  | .wrUnnamed offset value => Sys2Proof.Machine.execWrUnnamed offset value s
  | .wrInvalid offset value => Sys2Proof.Machine.execWrInvalid offset value s
  | .rdEnable => Sys2Proof.Machine.execRdEnable s
  | .rdOutAddrLo0 => Sys2Proof.Machine.execRdOutAddrLo0 s
  | .rdOutAddrHi0 => Sys2Proof.Machine.execRdOutAddrHi0 s
  | .rdOutAddrLo1 => Sys2Proof.Machine.execRdOutAddrLo1 s
  | .rdOutAddrHi1 => Sys2Proof.Machine.execRdOutAddrHi1 s
  | .rdOutFormat => Sys2Proof.Machine.execRdOutFormat s
  | .rdOutWidth => Sys2Proof.Machine.execRdOutWidth s
  | .rdOutHeight => Sys2Proof.Machine.execRdOutHeight s
  | .rdOutStatus => Sys2Proof.Machine.execRdOutStatus s
  | .rdVvalidDuration => Sys2Proof.Machine.execRdVvalidDuration s
  | .rdVblankDuration => Sys2Proof.Machine.execRdVblankDuration s
  | .rdIrqReg => Sys2Proof.Machine.execRdIrqReg s
  | .rdUnnamed offset => Sys2Proof.Machine.execRdUnnamed offset s
  | .rdInvalid offset => Sys2Proof.Machine.execRdInvalid offset s
  | .evFrameStart => Sys2Proof.Machine.execEvFrameStart s
  | .evFrameEnd => Sys2Proof.Machine.execEvFrameEnd s
  | .intRegisterWrite offset value => Sys2Proof.Machine.execIntRegisterWrite offset value s
  | .intRegisterRead offset => Sys2Proof.Machine.execIntRegisterRead offset s
  | .intHandlerWrite offset value => Sys2Proof.Machine.execIntHandlerWrite offset value s
  | .intHandlerRead offset => Sys2Proof.Machine.execIntHandlerRead offset s
  | .intValidateDmaConfig channel planeCount => Sys2Proof.Machine.execIntValidateDmaConfig channel planeCount s
  | .intDmaWrite channel buffer length planeIndex => Sys2Proof.Machine.execIntDmaWrite channel buffer length planeIndex s
  | .intMemWrite addr n bytes => Sys2Proof.Machine.execIntMemWrite addr n bytes s
  | .intCreateTimers => Sys2Proof.Machine.execIntCreateTimers s
  | .intAllocCache => Sys2Proof.Machine.execIntAllocCache s
  | .intReleaseCache => Sys2Proof.Machine.execIntReleaseCache s
  | .intArm t durUs => Sys2Proof.Machine.execIntArm t durUs s
  | .intSetIrq value => Sys2Proof.Machine.execIntSetIrq value s
  | .intRaiseFlag m => Sys2Proof.Machine.execIntRaiseFlag m s

end Sys2Proof.Machine
end

