-- ==== Sys2Proof/WellFormed.lean ====
section
/-! DEFINITION. When an operation's operands are the ones its row of `spec/opcode_table.json` admits
(`spec/30_encoding.md` R53, R60). -/

namespace Sys2Proof

open Sys2Proof.Machine

/-- The operand conditions of the rows: the written value of `WR.ENABLE.ON` is not 0 (R101), the
generic rows have the offsets R60 gives them, the handlers see validated offsets only (R66 to R68),
`buffer` and `bytes` hold the bytes the length names (R97, R99), and a raised flag is one of the two
the block uses (R112). -/
def WellFormed : Instr → Bool
  | .wrEnableOn value => value != 0#32
  | .wrUnnamed offset _ => unnamedOffset offset
  | .wrInvalid offset _ => !validOffset offset
  | .rdUnnamed offset => unnamedOffset offset
  | .rdInvalid offset => !validOffset offset
  | .intHandlerWrite offset _ => validOffset offset
  | .intHandlerRead offset => validOffset offset
  | .intDmaWrite _ buffer length _ => length ≤ buffer.length
  | .intMemWrite _ n bytes => n == bytes.length
  | .intRaiseFlag m => m == 1#32 || m == 2#32
  | .wrEnableOff | .wrOutAddrLo0 _ | .wrOutAddrHi0 _ | .wrOutAddrLo1 _ | .wrOutAddrHi1 _
  | .wrOutFormat _ | .wrOutWidth _ | .wrOutHeight _ | .wrOutStatus _ | .wrVvalidDuration _
  | .wrVblankDuration _ | .wrIrqReg _
  | .rdEnable | .rdOutAddrLo0 | .rdOutAddrHi0 | .rdOutAddrLo1 | .rdOutAddrHi1 | .rdOutFormat
  | .rdOutWidth | .rdOutHeight | .rdOutStatus | .rdVvalidDuration | .rdVblankDuration | .rdIrqReg
  | .evFrameStart | .evFrameEnd
  | .intRegisterWrite _ _ | .intRegisterRead _ | .intValidateDmaConfig _ _ | .intCreateTimers
  | .intAllocCache | .intReleaseCache | .intArm _ _ | .intSetIrq _ => true

end Sys2Proof
end

