-- ==== Sys2Proof/Decode.lean ====
section
/-! DEFINITION. Operation words: their fields, the decoder, the encoder, and the rows of
`spec/opcode_table.json` with their selection rule (`spec/30_encoding.md` R51 to R53, R60, R61). -/

namespace Sys2Proof

open Sys2Proof.Machine

/-! ### Fields of an operation word (R51, R52) -/

/-- Field `kind`, bits 65:64. -/
def opKind (w : OpWord) : BitVec 2 := w.extractLsb' 64 2

/-- Field `offset`, bits 63:32: the register offset, or the timer id of an event. -/
def opOffset (w : OpWord) : Word := w.extractLsb' 32 32

/-- Field `wdata`, bits 31:0. -/
def opData (w : OpWord) : Word := w.extractLsb' 0 32

/-- The selector of a word: its top 34 bits, `kind ++ offset` (R53). -/
def opSelector (w : OpWord) : BitVec 34 := w.extractLsb' 32 34

/-- The operation word with the given fields (R51). -/
def packWord (kind : BitVec 2) (offset data : Word) : OpWord := kind ++ offset ++ data

/-- `kind` of a register read (R51). -/
def kindRead : BitVec 2 := 0b00#2

/-- `kind` of a register write (R51). -/
def kindWrite : BitVec 2 := 0b01#2

/-- `kind` of a timer event (R52). -/
def kindEvent : BitVec 2 := 0b10#2

/-- The id of a timer in an event word (R52). -/
def timerCode : TimerId → Word
  | .fs => 0#32
  | .fe => 1#32

/-! ### The decoder -/

/-- Why a word denotes no operation (R52, R61). -/
inductive DecodeReject where
  /-- `kind` is 11. -/
  | noSuchKind
  /-- `kind` is 10 and the timer id is 2 or more. -/
  | noSuchTimer (id : Word)
  deriving DecidableEq, Repr

/-- The host write of an offset and value (R60, first table). -/
def decodeWrite (off v : Word) : Instr :=
  if validOffset off then
    match regAt off with
    | some .enable => if v = 0#32 then .wrEnableOff else .wrEnableOn v
    | some .outAddrLo0 => .wrOutAddrLo0 v
    | some .outAddrHi0 => .wrOutAddrHi0 v
    | some .outAddrLo1 => .wrOutAddrLo1 v
    | some .outAddrHi1 => .wrOutAddrHi1 v
    | some .outFormat => .wrOutFormat v
    | some .outWidth => .wrOutWidth v
    | some .outHeight => .wrOutHeight v
    | some .outStatus => .wrOutStatus v
    | some .vvalidDuration => .wrVvalidDuration v
    | some .vblankDuration => .wrVblankDuration v
    | some .irqReg => .wrIrqReg v
    | none => .wrUnnamed off v
  else .wrInvalid off v

/-- The host read of an offset (R60, second table). -/
def decodeRead (off : Word) : Instr :=
  if validOffset off then
    match regAt off with
    | some .enable => .rdEnable
    | some .outAddrLo0 => .rdOutAddrLo0
    | some .outAddrHi0 => .rdOutAddrHi0
    | some .outAddrLo1 => .rdOutAddrLo1
    | some .outAddrHi1 => .rdOutAddrHi1
    | some .outFormat => .rdOutFormat
    | some .outWidth => .rdOutWidth
    | some .outHeight => .rdOutHeight
    | some .outStatus => .rdOutStatus
    | some .vvalidDuration => .rdVvalidDuration
    | some .vblankDuration => .rdVblankDuration
    | some .irqReg => .rdIrqReg
    | none => .rdUnnamed off
  else .rdInvalid off

/-- The timer event of an id (R60, third table). -/
def decodeEvent (id : Word) : Except DecodeReject Instr :=
  if id = timerCode .fs then .ok .evFrameStart
  else if id = timerCode .fe then .ok .evFrameEnd
  else .error (.noSuchTimer id)

/-- The operation a word denotes (R53). `wdata` is looked at only where a row sets a condition on it,
so it is ignored in reads and (DEDUCED, log entry 5) in events. -/
def decode (w : OpWord) : Except DecodeReject Instr :=
  if opKind w = kindRead then .ok (decodeRead (opOffset w))
  else if opKind w = kindWrite then .ok (decodeWrite (opOffset w) (opData w))
  else if opKind w = kindEvent then decodeEvent (opOffset w)
  else .error .noSuchKind

/-! ### The encoder -/

/-- The word of a host write of a named register. -/
def writeWord (r : RegName) (v : Word) : OpWord := packWord kindWrite (regOffset r) v

/-- The word of a host read of a named register; `wdata` is written as 0 (R51). -/
def readWord (r : RegName) : OpWord := packWord kindRead (regOffset r) 0#32

/-- The operation word of an operation; `none` for format `INT`, which has none (R60). -/
def encode : Instr → Option OpWord
  | .wrEnableOn v => some (writeWord .enable v)
  | .wrEnableOff => some (writeWord .enable 0#32)
  | .wrOutAddrLo0 v => some (writeWord .outAddrLo0 v)
  | .wrOutAddrHi0 v => some (writeWord .outAddrHi0 v)
  | .wrOutAddrLo1 v => some (writeWord .outAddrLo1 v)
  | .wrOutAddrHi1 v => some (writeWord .outAddrHi1 v)
  | .wrOutFormat v => some (writeWord .outFormat v)
  | .wrOutWidth v => some (writeWord .outWidth v)
  | .wrOutHeight v => some (writeWord .outHeight v)
  | .wrOutStatus v => some (writeWord .outStatus v)
  | .wrVvalidDuration v => some (writeWord .vvalidDuration v)
  | .wrVblankDuration v => some (writeWord .vblankDuration v)
  | .wrIrqReg v => some (writeWord .irqReg v)
  | .wrUnnamed off v => some (packWord kindWrite off v)
  | .wrInvalid off v => some (packWord kindWrite off v)
  | .rdEnable => some (readWord .enable)
  | .rdOutAddrLo0 => some (readWord .outAddrLo0)
  | .rdOutAddrHi0 => some (readWord .outAddrHi0)
  | .rdOutAddrLo1 => some (readWord .outAddrLo1)
  | .rdOutAddrHi1 => some (readWord .outAddrHi1)
  | .rdOutFormat => some (readWord .outFormat)
  | .rdOutWidth => some (readWord .outWidth)
  | .rdOutHeight => some (readWord .outHeight)
  | .rdOutStatus => some (readWord .outStatus)
  | .rdVvalidDuration => some (readWord .vvalidDuration)
  | .rdVblankDuration => some (readWord .vblankDuration)
  | .rdIrqReg => some (readWord .irqReg)
  | .rdUnnamed off => some (packWord kindRead off 0#32)
  | .rdInvalid off => some (packWord kindRead off 0#32)
  | .evFrameStart => some (packWord kindEvent (timerCode .fs) 0#32)
  | .evFrameEnd => some (packWord kindEvent (timerCode .fe) 0#32)
  | .intRegisterWrite _ _ | .intRegisterRead _ | .intHandlerWrite _ _ | .intHandlerRead _
  | .intValidateDmaConfig _ _ | .intDmaWrite _ _ _ _ | .intMemWrite _ _ _ | .intCreateTimers
  | .intAllocCache | .intReleaseCache | .intArm _ _ | .intSetIrq _ | .intRaiseFlag _ => none

/-! ### The rows of the opcode table and their selection (R53) -/

/-- A row's condition on `wdata`. -/
inductive DataCond where
  | any | zero | nonzero
  deriving DecidableEq, Repr

/-- A row of `spec/opcode_table.json` that has an encoding. -/
structure Row where
  mnemonic : String
  pattern : BitVec 34
  mask : BitVec 34
  priority : Nat
  cond : DataCond
  deriving DecidableEq, Repr

/-- The rows of the host writes. -/
def writeRows : List Row :=
  [⟨"WR.ENABLE.ON", 0x100000000#34, 0x3FFFFFFFF#34, 0, .nonzero⟩,
   ⟨"WR.ENABLE.OFF", 0x100000000#34, 0x3FFFFFFFF#34, 0, .zero⟩,
   ⟨"WR.OUT_ADDR_LO_0", 0x100000008#34, 0x3FFFFFFFF#34, 0, .any⟩,
   ⟨"WR.OUT_ADDR_HI_0", 0x10000000C#34, 0x3FFFFFFFF#34, 0, .any⟩,
   ⟨"WR.OUT_ADDR_LO_1", 0x100000010#34, 0x3FFFFFFFF#34, 0, .any⟩,
   ⟨"WR.OUT_ADDR_HI_1", 0x100000014#34, 0x3FFFFFFFF#34, 0, .any⟩,
   ⟨"WR.OUT_FORMAT", 0x100000018#34, 0x3FFFFFFFF#34, 0, .any⟩,
   ⟨"WR.OUT_WIDTH", 0x10000001C#34, 0x3FFFFFFFF#34, 0, .any⟩,
   ⟨"WR.OUT_HEIGHT", 0x100000020#34, 0x3FFFFFFFF#34, 0, .any⟩,
   ⟨"WR.OUT_STATUS", 0x100000024#34, 0x3FFFFFFFF#34, 0, .any⟩,
   ⟨"WR.VVALID_DURATION", 0x100000028#34, 0x3FFFFFFFF#34, 0, .any⟩,
   ⟨"WR.VBLANK_DURATION", 0x10000002C#34, 0x3FFFFFFFF#34, 0, .any⟩,
   ⟨"WR.IRQ_REG", 0x100000030#34, 0x3FFFFFFFF#34, 0, .any⟩,
   ⟨"WR.UNNAMED", 0x100000000#34, 0x3FFFFFC03#34, 1, .any⟩,
   ⟨"WR.INVALID", 0x100000000#34, 0x300000000#34, 2, .any⟩]

/-- The rows of the host reads. -/
def readRows : List Row :=
  [⟨"RD.ENABLE", 0x000000000#34, 0x3FFFFFFFF#34, 0, .any⟩,
   ⟨"RD.OUT_ADDR_LO_0", 0x000000008#34, 0x3FFFFFFFF#34, 0, .any⟩,
   ⟨"RD.OUT_ADDR_HI_0", 0x00000000C#34, 0x3FFFFFFFF#34, 0, .any⟩,
   ⟨"RD.OUT_ADDR_LO_1", 0x000000010#34, 0x3FFFFFFFF#34, 0, .any⟩,
   ⟨"RD.OUT_ADDR_HI_1", 0x000000014#34, 0x3FFFFFFFF#34, 0, .any⟩,
   ⟨"RD.OUT_FORMAT", 0x000000018#34, 0x3FFFFFFFF#34, 0, .any⟩,
   ⟨"RD.OUT_WIDTH", 0x00000001C#34, 0x3FFFFFFFF#34, 0, .any⟩,
   ⟨"RD.OUT_HEIGHT", 0x000000020#34, 0x3FFFFFFFF#34, 0, .any⟩,
   ⟨"RD.OUT_STATUS", 0x000000024#34, 0x3FFFFFFFF#34, 0, .any⟩,
   ⟨"RD.VVALID_DURATION", 0x000000028#34, 0x3FFFFFFFF#34, 0, .any⟩,
   ⟨"RD.VBLANK_DURATION", 0x00000002C#34, 0x3FFFFFFFF#34, 0, .any⟩,
   ⟨"RD.IRQ_REG", 0x000000030#34, 0x3FFFFFFFF#34, 0, .any⟩,
   ⟨"RD.UNNAMED", 0x000000000#34, 0x3FFFFFC03#34, 1, .any⟩,
   ⟨"RD.INVALID", 0x000000000#34, 0x300000000#34, 2, .any⟩]

/-- The rows of the timer events. -/
def eventRows : List Row :=
  [⟨"EV.FRAME_START", 0x200000000#34, 0x3FFFFFFFF#34, 0, .any⟩,
   ⟨"EV.FRAME_END", 0x200000001#34, 0x3FFFFFFFF#34, 0, .any⟩]

/-- Every row that has an encoding, in the order of the table. -/
def opcodeRows : List Row := writeRows ++ readRows ++ eventRows

/-- `wdata` meets a row's condition. -/
def DataCond.holds : DataCond → Word → Bool
  | .any, _ => true
  | .zero, v => v == 0#32
  | .nonzero, v => v != 0#32

/-- A word selects a row: the masked selector equals the row's pattern and `wdata` meets its
condition. -/
def Row.selects (r : Row) (w : OpWord) : Bool :=
  opSelector w &&& r.mask == r.pattern && r.cond.holds (opData w)

/-- The winning row of a word: a selected row of the smallest priority number. -/
def winningRow (w : OpWord) : Option Row :=
  [0, 1, 2].findSome? fun p => opcodeRows.find? fun r => r.priority == p && r.selects w

/-- The mnemonic of an operation's row. -/
def mnemonicOf : Instr → String
  | .wrEnableOn _ => "WR.ENABLE.ON"
  | .wrEnableOff => "WR.ENABLE.OFF"
  | .wrOutAddrLo0 _ => "WR.OUT_ADDR_LO_0"
  | .wrOutAddrHi0 _ => "WR.OUT_ADDR_HI_0"
  | .wrOutAddrLo1 _ => "WR.OUT_ADDR_LO_1"
  | .wrOutAddrHi1 _ => "WR.OUT_ADDR_HI_1"
  | .wrOutFormat _ => "WR.OUT_FORMAT"
  | .wrOutWidth _ => "WR.OUT_WIDTH"
  | .wrOutHeight _ => "WR.OUT_HEIGHT"
  | .wrOutStatus _ => "WR.OUT_STATUS"
  | .wrVvalidDuration _ => "WR.VVALID_DURATION"
  | .wrVblankDuration _ => "WR.VBLANK_DURATION"
  | .wrIrqReg _ => "WR.IRQ_REG"
  | .wrUnnamed _ _ => "WR.UNNAMED"
  | .wrInvalid _ _ => "WR.INVALID"
  | .rdEnable => "RD.ENABLE"
  | .rdOutAddrLo0 => "RD.OUT_ADDR_LO_0"
  | .rdOutAddrHi0 => "RD.OUT_ADDR_HI_0"
  | .rdOutAddrLo1 => "RD.OUT_ADDR_LO_1"
  | .rdOutAddrHi1 => "RD.OUT_ADDR_HI_1"
  | .rdOutFormat => "RD.OUT_FORMAT"
  | .rdOutWidth => "RD.OUT_WIDTH"
  | .rdOutHeight => "RD.OUT_HEIGHT"
  | .rdOutStatus => "RD.OUT_STATUS"
  | .rdVvalidDuration => "RD.VVALID_DURATION"
  | .rdVblankDuration => "RD.VBLANK_DURATION"
  | .rdIrqReg => "RD.IRQ_REG"
  | .rdUnnamed _ => "RD.UNNAMED"
  | .rdInvalid _ => "RD.INVALID"
  | .evFrameStart => "EV.FRAME_START"
  | .evFrameEnd => "EV.FRAME_END"
  | .intRegisterWrite _ _ => "INT.register_write"
  | .intRegisterRead _ => "INT.register_read"
  | .intHandlerWrite _ _ => "INT.handler_write"
  | .intHandlerRead _ => "INT.handler_read"
  | .intValidateDmaConfig _ _ => "INT.validate_dma_config"
  | .intDmaWrite _ _ _ _ => "INT.dma_write"
  | .intMemWrite _ _ _ => "INT.MemWrite"
  | .intCreateTimers => "INT.create_timers"
  | .intAllocCache => "INT.alloc_cache"
  | .intReleaseCache => "INT.release_cache"
  | .intArm _ _ => "INT.arm"
  | .intSetIrq _ => "INT.set_irq"
  | .intRaiseFlag _ => "INT.raise_flag"

/-! ### The host's view of the decoder -/

/-- The operation word a table row's bits stand for. The table numbers a row's `match` and `mask` over
the 34-bit selector, and its operands over the whole 66-bit word. So a number of fewer than 66 bits
is a selector, whose operand word `wdata` is 0, and a number of 66 bits or more is the whole word
(DESIGN CHOICE, log entry 4). `none` when the number does not fit. -/
def tableWord (nbits w : Nat) : Option OpWord :=
  if nbits < 66 then
    if w < 2 ^ 34 then some (BitVec.ofNat 66 (w * 2 ^ 32)) else none
  else
    if w < 2 ^ 66 then some (BitVec.ofNat 66 w) else none

/-- The operation the decoder reads from a table row's bits. -/
def decodeTableWord (nbits w : Nat) : Option Instr :=
  match tableWord nbits w with
  | none => none
  | some word => (decode word).toOption

end Sys2Proof
end

