-- ==== Sys2Proof/Machine/Schedule.lean ====
section
/-! DEFINITION. Which agent takes the next step: the host and the environment through the inbox, or a
timer that is due (`spec/00_scope.md` R3, R4; `spec/20_memory.md` R50; `spec/42_frame_sequencer.md`
R108; log entries 1 to 3). -/

namespace Sys2Proof.Machine

/-- The last instant a pending timer fires at: its deadline and the greatest lateness, not before now
(R108, D2). -/
def firesAt (t : TimerId) (s : State) : Nat :=
  max s.now ((s.timer t).deadline + s.params.timerLateness)

/-- The pending timer that fires first; at most one is pending in a run (R31, item 2). -/
def pendingTimer (s : State) : Option TimerId :=
  if s.fs.pending && (!s.fe.pending || firesAt .fs s ≤ firesAt .fe s) then some .fs
  else if s.fe.pending then some .fe
  else none

/-- When a request is taken: at its time, or now if that is past. -/
def arrivesAt (r : Request) (s : State) : Nat := max s.now r.time

/-- A request is taken before a pending timer fires by itself. At one instant the request is taken
first; the other order is the inbox that presents the timer's event ahead of the request (R50, D25, log
entry 2). -/
def requestFirst (r : Request) (t : TimerId) (s : State) : Bool := arrivesAt r s ≤ firesAt t s

/-- The event a timer causes (R52). -/
def eventOf : TimerId → Instr
  | .fs => .evFrameStart
  | .fe => .evFrameEnd

/-- The refusal of a word that denotes no operation (R61). -/
def rejection : DecodeReject → Refusal
  | .noSuchKind => .noSuchKind
  | .noSuchTimer id => .noSuchTimer id

/-- What the next step does. -/
inductive Turn where
  /-- The block is halted: no step is enabled (R28). -/
  | halted
  /-- No request and no pending timer: nothing happens (R138; log entry 3). -/
  | idle
  /-- The step is this operation, in this state. -/
  | run (i : Instr) (s : State)
  /-- The word presented denotes no operation. -/
  | reject (r : Refusal)

/-- A pending timer fires by itself, at the last instant R108 admits; the clock moves to it. -/
def fireTurn (t : TimerId) (s : State) : Turn := .run (eventOf t) { s with now := firesAt t s }

/-- The oldest request is taken; the clock moves to its time. -/
def requestTurn (r : Request) (rest : List Request) (s : State) : Turn :=
  match decode r.word with
  | .ok i => .run i { s with now := arrivesAt r s, inbox := rest }
  | .error e => .reject (rejection e)

/-- The next step. -/
def nextTurn (s : State) : Turn :=
  if s.halted then .halted
  else
    match s.inbox, pendingTimer s with
    | [], none => .idle
    | [], some t => fireTurn t s
    | r :: rest, none => requestTurn r rest s
    | r :: rest, some t => if requestFirst r t s then requestTurn r rest s else fireTurn t s

/-- The state in which the host presents a word now, ahead of everything else. -/
def present (word : OpWord) (s : State) : State :=
  { s with inbox := { time := s.now, word := word } :: s.inbox }

end Sys2Proof.Machine
end

