-- ==== Sys2Proof/Machine/Step.lean ====
section
/-! DEFINITION. One step of the machine, and the state in which the next step runs a given word. -/

namespace Sys2Proof.Machine

/-- One step (`spec/00_scope.md` R4): one operation of one agent, run to completion. -/
def step (s : State) : Host.Outcome State Fault Refusal :=
  match nextTurn s with
  | .halted => .fault .halted
  | .idle => .next s
  | .run i s1 => exec i s1
  | .reject r => .refused r

/-- The operation a table row's bits stand for, presented on the block's ports so that the very next step
runs it (log entries 1 and 4). Bits that are no operation word leave the state as it is. -/
def State.withFetchWord (s : State) (nbits w : Nat) : State :=
  match tableWord nbits w with
  | none => s
  | some word => present word s

end Sys2Proof.Machine
end

