-- ==== Sys2Proof/Safety.lean ====
section
/-! DEFINITION. What the spec promises of every state between steps (`spec/10_state.md` R31), and what of
a state the block itself holds (`spec/60_exceptions.md` R137). -/

namespace Sys2Proof.Machine

/-- R31 item 1: the cache exists exactly while the device is not Idle. -/
def CacheMatchesStatus (s : State) : Prop := s.cache.isSome = true ↔ s.status ≠ .idle

/-- R31 item 2: the one timer of the current phase is pending, and no other. -/
def TimersMatchStatus (s : State) : Prop :=
  s.fs.pending = (s.status == .blanking) ∧ s.fe.pending = (s.status == .frameValid)

/-- R31 item 3: no stop request is left in Idle. -/
def NoStopInIdle (s : State) : Prop := s.status = .idle → s.stopRequested = false

/-- R31 item 4: both handles exist while the device is not Idle. -/
def TimersCreated (s : State) : Prop :=
  s.status ≠ .idle → s.fs.created = true ∧ s.fe.created = true

/-- R31 item 5: every channel is idle between steps. -/
def ChannelsIdle (s : State) : Prop := ∀ ch ∈ s.chan, ch.status = .idle

/-- R31 item 6: the latched length is the cache's, every byte is the sentinel, and there is one. -/
def CacheHoldsSentinel (s : State) : Prop :=
  ∀ bytes, s.cache = some bytes →
    s.cacheLen = bytes.length ∧ (∀ b ∈ bytes, b = sentinel) ∧ 1 ≤ s.cacheLen

/-- R31 item 7: the line has the value of the last delivery, 0 before the first. -/
def LineIsLastDelivery (s : State) : Prop := s.irqLine = s.irqTrace.getLastD 0#32

/-- R108: virtual time has not passed a pending timer's deadline by more than the lateness. -/
def NoTimerMissed (s : State) : Prop :=
  ∀ t, (s.timer t).pending = true → s.now ≤ (s.timer t).deadline + s.params.timerLateness

/-- Every channel's target space has the canonical form, the model's own choice (log entry 11). -/
def SpacesCanonical (s : State) : Prop := ∀ ch ∈ s.chan, ch.space.wf

/-- The invariants of R31, which hold "as long as `halted` is 0", with the model's own on memory and on
time. -/
structure Invariants (s : State) : Prop where
  running : s.halted = false
  cacheMatchesStatus : CacheMatchesStatus s
  timersMatchStatus : TimersMatchStatus s
  noStopInIdle : NoStopInIdle s
  timersCreated : TimersCreated s
  channelsIdle : ChannelsIdle s
  cacheHoldsSentinel : CacheHoldsSentinel s
  lineIsLastDelivery : LineIsLastDelivery s
  noTimerMissed : NoTimerMissed s
  spacesCanonical : SpacesCanonical s

/-- The block's own state and its outputs: without the target spaces, the environment's answers to
`MemWrite`, and the log (R29, R41, R137). -/
def blockView (s : State) : State :=
  { s with
    chan := s.chan.map fun ch => { ch with space := [] }
    memAnswers := []
    draws := 0
    log := [] }

/-- What `enable()` asks of the descriptor of plane 0 while there is no cache (R101, errors 2 and 3). -/
def PlaneReady (s : State) : Prop :=
  0 < s.chan.length ∧ (s.word 0x08#32 ≠ 0#32 ∨ s.word 0x0C#32 ≠ 0#32) ∧
  s.word 0x1C#32 ≠ 0#32 ∧ s.word 0x20#32 ≠ 0#32

/-- The two handles exist or can be created (R110). -/
def TimersReady (s : State) : Prop :=
  s.params.timerCreateOk = true ∨ (s.fs.created = true ∧ s.fe.created = true)

/-- The state after `create_timers()` succeeded. -/
def withTimers (s : State) : State :=
  { s with fs := { s.fs with created := true }, fe := { s.fe with created := true } }

/-- No request is waiting, no stop is requested, and timers fire at their deadline exactly. -/
def RunsUndisturbed (s : State) : Prop :=
  s.inbox = [] ∧ s.stopRequested = false ∧ s.params.timerLateness = 0

/-- What the frame-end event logs: an entry when the primary channel is not idle (R107). -/
def idleCheckEntries (s : State) : List LogEntry :=
  if s.chanStatus 0 = some .idle then [] else [.dmaNotIdleAtFrameEnd]

end Sys2Proof.Machine
end

