-- ==== Sys2Proof/Certificates/Slice0/Obligations.lean ====
section
/-! DEFINITION. The statements for the provers. Each docstring names the rules of `spec/` a statement
formalises, or says that it rests on a decision of the spec or of the model. -/

open Sys2Proof Sys2Proof.Machine

/-! ## Encoding -/

/-- Operation words written out in `spec/30_encoding.md` R62 and `spec/95_test_vectors.md` decode to the
operations they stand for. The word layout is the spec's own notation (D26). -/
def Obligations.SampleWordsDecode : Prop :=
  decode 0x10000000880001000#66 = .ok (.wrOutAddrLo0 0x80001000#32) ∧
  decode 0x00000002400000000#66 = .ok .rdOutStatus ∧
  decode 0x20000000000000000#66 = .ok .evFrameStart ∧
  decode 0x20000000100000000#66 = .ok .evFrameEnd ∧
  decode 0x100000000FFFFFFFF#66 = .ok (.wrEnableOn 0xFFFFFFFF#32) ∧
  decode 0x10000000000000000#66 = .ok .wrEnableOff ∧
  decode 0x10000003000000002#66 = .ok (.wrIrqReg 2#32) ∧
  decode 0x1000003FC0000ABCD#66 = .ok (.wrUnnamed 0x3FC#32 0xABCD#32) ∧
  decode 0x1FFFFFFFC00000001#66 = .ok (.wrInvalid 0xFFFFFFFC#32 1#32) ∧
  decode 0x00000003100000000#66 = .ok (.rdInvalid 0x31#32)

/-- Decode and encode agree: no operand bit of any operation is dropped. -/
def Obligations.DecodeOfEncodeIsTheOperation : Prop :=
  ∀ (i : Instr) (w : OpWord), WellFormed i = true → encode i = some w → decode w = .ok i

/-- What a word decodes to is well formed and encodes to a word of the same selector; a write word
encodes back to itself (`wdata` of a read is ignored, R51; of an event too, log entry 5). -/
def Obligations.EncodeOfDecodeIsTheWord : Prop :=
  ∀ (w : OpWord) (i : Instr), decode w = .ok i →
    WellFormed i = true ∧
      ∃ w', encode i = some w' ∧ opSelector w' = opSelector w ∧ (opKind w = kindWrite → w' = w)

/-- R53: the decoder reads the winning row of the table. Every read or write word has exactly one selected
row of the winning or a smaller priority number; rows of format `INT` have no pattern. -/
def Obligations.DecodeReadsTheWinningRow : Prop :=
  (∀ w : OpWord, opSelector w = opKind w ++ opOffset w) ∧
  (∀ (w : OpWord) (i : Instr), decode w = .ok i →
    (winningRow w).map Row.mnemonic = some (mnemonicOf i)) ∧
  (∀ (w : OpWord) (e : DecodeReject), decode w = .error e → winningRow w = none) ∧
  (∀ w : OpWord, opKind w = kindRead ∨ opKind w = kindWrite →
    ∃ r, winningRow w = some r ∧
      (opcodeRows.filter fun r' => r'.selects w && decide (r'.priority ≤ r.priority)) = [r]) ∧
  (∀ i : Instr, encode i = none → mnemonicOf i ∉ opcodeRows.map Row.mnemonic)

/-- A word of kind 11, or of kind 10 with a timer id of 2 or more, denotes no operation, and a block that
runs refuses it by name (R61; the layout is D26's). -/
def Obligations.NoOperationWordsAreRefused : Prop :=
  ∀ (s : State) (w : OpWord), s.halted = false →
    (opKind w = 0b11#2 → step (present w s) = .refused .noSuchKind) ∧
    (opKind w = 0b10#2 → 2 ≤ (opOffset w).toNat →
      step (present w s) = .refused (.noSuchTimer (opOffset w)))

/-! ## The step -/

/-- A step runs the decoded operation: the oldest request, taken no later than the last instant a pending
timer fires at, at its time; and the word `withFetchWord` presents, at once (the model's own scheduling,
log entries 1 and 2). -/
def Obligations.StepRunsThePresentedOperation : Prop :=
  (∀ (s : State) (r : Request) (rest : List Request) (i : Instr),
    s.halted = false → s.inbox = r :: rest → decode r.word = .ok i →
    (∀ t, pendingTimer s = some t →
      max s.now r.time ≤ max s.now ((s.timer t).deadline + s.params.timerLateness)) →
    step s = exec i { s with now := max s.now r.time, inbox := rest }) ∧
  (∀ (s : State) (w : OpWord) (i : Instr), s.halted = false → decode w = .ok i →
    step (s.withFetchWord 66 w.toNat) = exec i s)

/-- A pending timer always fires: when no request comes first, the step is its event, at its deadline plus
the greatest lateness, and it is no longer pending afterwards (R108, D2; the instant is log entry 2's). -/
def Obligations.PendingTimerFires : Prop :=
  ∀ (s : State) (t : TimerId), s.halted = false → pendingTimer s = some t →
    (∀ r rest, s.inbox = r :: rest →
      max s.now ((s.timer t).deadline + s.params.timerLateness) < max s.now r.time) →
    ∃ s', step s = .next s' ∧
      step s = exec (match t with | .fs => .evFrameStart | .fe => .evFrameEnd)
        { s with now := max s.now ((s.timer t).deadline + s.params.timerLateness) } ∧
      (s'.timer t).pending = false ∧
      s'.now = max s.now ((s.timer t).deadline + s.params.timerLateness)

/-- When no step happens. A halted block takes no step of any kind (R28; the halt is D24's). A block with no
request and no pending timer does nothing (R138); that such a step leaves every field is the model's
choice (log entry 3). -/
def Obligations.BlockRestsWhenHaltedOrWaiting : Prop :=
  (∀ s : State, s.halted = true →
    step s = .fault .halted ∧ ∀ i : Instr, exec i s = .fault .halted) ∧
  (∀ s : State, s.halted = false → s.inbox = [] → s.fs.pending = false → s.fe.pending = false →
    step s = .next s)

/-- A timer event that is not enabled does not happen: the timer is not pending, or its deadline is not
reached (R108, D2). -/
def Obligations.DisabledTimerEventIsRefused : Prop :=
  ∀ s : State, s.halted = false →
    (s.fs.pending = false → exec .evFrameStart s = .refused (.timerNotPending .fs)) ∧
    (s.fe.pending = false → exec .evFrameEnd s = .refused (.timerNotPending .fe)) ∧
    (s.fs.pending = true → s.now < s.fs.deadline →
      exec .evFrameStart s = .refused (.timerNotDue .fs)) ∧
    (s.fe.pending = true → s.now < s.fe.deadline →
      exec .evFrameEnd s = .refused (.timerNotDue .fe))

/-! ## Reset and invariants -/

/-- The state after the reset event (R32, R138; most values are D23's, and the deadlines, the time and the
model's own fields are log entries 16 to 18's). -/
def Obligations.ResetLeavesTheStatedValues : Prop :=
  (∀ off : Word, State.reset.word off = 0#32) ∧
  State.reset.status = .idle ∧ State.reset.stopRequested = false ∧
  State.reset.fs.created = false ∧ State.reset.fe.created = false ∧
  State.reset.fs.pending = false ∧ State.reset.fe.pending = false ∧
  State.reset.cache = none ∧ State.reset.cacheLen = 0 ∧
  State.reset.chan.map Channel.enable = [false] ∧
  State.reset.chan.map Channel.status = [.idle] ∧
  State.reset.irqLine = 0#32 ∧ State.reset.irqTrace = [] ∧ State.reset.halted = false ∧
  exec .rdOutStatus State.reset = .next { State.reset with result := some (.data 0#32) }

/-- The invariants of R31 hold at reset, and with them the model's own two: no pending timer is missed (from
R108), and the target spaces are in canonical form (DESIGN CHOICE, log entry 11). -/
def Obligations.ResetMeetsTheInvariants : Prop := Invariants State.reset

/-- Every step keeps the invariants of R31, so a run from reset never halts, and with them the model's own
two: no pending timer is missed (from R108; the instant is log entry 2's), and the target spaces are in
canonical form (DESIGN CHOICE, log entry 11). -/
def Obligations.StepKeepsTheInvariants : Prop :=
  ∀ s t : State, Invariants s → step s = .next t → Invariants t

/-- Every operation, the internal ones included, keeps the target spaces in canonical form. The form, rising
addresses without repeats, is the model's own choice and no rule of the spec (DESIGN CHOICE, log entry
11); the spec gives only that an address has 64 bits (R41, and R43 for a range that passes the end). -/
def Obligations.SpacesStayCanonical : Prop :=
  ∀ (i : Instr) (s t : State), SpacesCanonical s → exec i s = .next t → SpacesCanonical t

/-! ## The register window -/

/-- The admission test of R36 admits exactly the aligned offsets inside the window (R34; unaligned offsets
by D6). -/
def Obligations.AdmissionTestIsWindowAndAlignment : Prop :=
  ∀ off : Word, validOffset off = true ↔ off.toNat < 0x400 ∧ off.toNat % 4 = 0

/-- An operation whose whole effect is to store its value in one word of the bank and answer success. -/
def Sys2Proof.Machine.StoresWord (i : Word → Instr) (index : Nat) : Prop :=
  ∀ (v : Word) (s : State), s.halted = false →
    exec (i v) s = .next { s with bank := s.bank.setIfInBounds index v, result := some .ok }

/-- The plain writes store their word and do nothing else, in every state of the device (R69 to R75, R77,
R78). -/
def Obligations.PlainWritesStoreTheirWord : Prop :=
  StoresWord .wrOutAddrLo0 2 ∧ StoresWord .wrOutAddrHi0 3 ∧ StoresWord .wrOutAddrLo1 4 ∧
  StoresWord .wrOutAddrHi1 5 ∧ StoresWord .wrOutFormat 6 ∧ StoresWord .wrOutWidth 7 ∧
  StoresWord .wrOutHeight 8 ∧ StoresWord .wrVvalidDuration 10 ∧ StoresWord .wrVblankDuration 11

/-- A write of `OUT_STATUS` succeeds and no read shows it (R76, R89; D7). -/
def Obligations.StatusWriteIsInvisible : Prop :=
  ∀ (v : Word) (s : State), s.halted = false →
    ∃ t, exec (.wrOutStatus v) s = .next t ∧
      t = { s with bank := s.bank.setIfInBounds 9 v, result := some .ok } ∧
      ∀ (off : Word) (u : State), validOffset off = true → exec (decodeRead off) s = .next u →
        exec (decodeRead off) t = .next { t with result := u.result }

/-- The words with no named register are plain storage (R79, R93; D5). -/
def Obligations.UnnamedWordsAreStorage : Prop :=
  ∀ (off v : Word) (s : State), unnamedOffset off = true → s.halted = false →
    exec (.wrUnnamed off v) s =
      .next { s with bank := s.bank.setIfInBounds (off.toNat / 4) v, result := some .ok } ∧
    exec (.rdUnnamed off) s =
      .next { s with result := some (.data ((s.bank[off.toNat / 4]?).getD 0#32)) }

/-- An access outside the window or unaligned answers InvalidAddress, without data, and changes nothing,
whatever the state (R80, R94; D6, D33). -/
def Obligations.InvalidAccessChangesNothing : Prop :=
  ∀ (off v : Word) (s : State), 0x400 ≤ off.toNat ∨ off.toNat % 4 ≠ 0 → s.halted = false →
    exec (.wrInvalid off v) s = .next { s with result := some (.error .invalidAddress) } ∧
    exec (.rdInvalid off) s = .next { s with result := some (.error .invalidAddress) }

/-- An operation that answers the bank word at an offset and changes nothing. -/
def Sys2Proof.Machine.ReadsWord (i : Instr) (off : Word) : Prop :=
  ∀ s : State, s.halted = false → exec i s = .next { s with result := some (.data (s.word off)) }

/-- A register read back after a write of it from reset. -/
def Sys2Proof.Machine.ReadsBackFromReset (write : Word → Instr) (read : Instr) (v : Word) : Prop :=
  ∃ t, exec (write v) State.reset = .next t ∧
    exec read t = .next { t with result := some (.data v) }

/-- R82 to R85, R90 and R91, whole: the encoding, the effect in every state, and the example. -/
def Obligations.PlainReadsReturnTheirWord : Prop :=
  (decode 0x00000000800000000#66 = .ok .rdOutAddrLo0 ∧ ReadsWord .rdOutAddrLo0 0x08#32 ∧
    State.reset.word 0x08#32 = 0#32) ∧
  (decode 0x00000000C00000000#66 = .ok .rdOutAddrHi0 ∧ ReadsWord .rdOutAddrHi0 0x0C#32 ∧
    ReadsBackFromReset .wrOutAddrHi0 .rdOutAddrHi0 1#32) ∧
  (decode 0x00000001000000000#66 = .ok .rdOutAddrLo1 ∧ ReadsWord .rdOutAddrLo1 0x10#32 ∧
    State.reset.word 0x10#32 = 0#32) ∧
  (decode 0x00000001400000000#66 = .ok .rdOutAddrHi1 ∧ ReadsWord .rdOutAddrHi1 0x14#32 ∧
    State.reset.word 0x14#32 = 0#32) ∧
  (decode 0x00000002800000000#66 = .ok .rdVvalidDuration ∧ ReadsWord .rdVvalidDuration 0x28#32 ∧
    ReadsBackFromReset .wrVvalidDuration .rdVvalidDuration 2000#32) ∧
  (decode 0x00000002C00000000#66 = .ok .rdVblankDuration ∧ ReadsWord .rdVblankDuration 0x2C#32 ∧
    ReadsBackFromReset .wrVblankDuration .rdVblankDuration 1000#32)

/-- The reads of `ENABLE`, `OUT_FORMAT`, `OUT_WIDTH`, `OUT_HEIGHT` and `IRQ_REG` return the stored word
and change nothing; reading `IRQ_REG` clears nothing (R81, R86 to R88, R92). -/
def Obligations.ConfigurationReadsReturnTheirWord : Prop :=
  ReadsWord .rdEnable 0x00#32 ∧ ReadsWord .rdOutFormat 0x18#32 ∧ ReadsWord .rdOutWidth 0x1C#32 ∧
  ReadsWord .rdOutHeight 0x20#32 ∧ ReadsWord .rdIrqReg 0x30#32

/-- R55: a read of `OUT_STATUS` answers 0 in Idle, 1 in FrameValid and 2 in Blanking, and changes
nothing; no other value is ever read. -/
def Obligations.StatusReadEncodesTheStatus : Prop :=
  ∀ s : State, s.halted = false →
    ∃ v : Word, exec .rdOutStatus s = .next { s with result := some (.data v) } ∧
      (s.status = .idle → v = 0#32) ∧ (s.status = .frameValid → v = 1#32) ∧
      (s.status = .blanking → v = 2#32) ∧ v.toNat < 3

/-- What a write stores is read back, and no other offset reads differently, for every admitted offset but
`ENABLE` and `OUT_STATUS` (R64, R65, R44). -/
def Obligations.WrittenWordIsReadBack : Prop :=
  ∀ (off v : Word) (s : State), validOffset off = true → off ≠ 0x00#32 → off ≠ 0x24#32 →
    s.halted = false →
    ∃ t, exec (decodeWrite off v) s = .next t ∧
      exec (decodeRead off) t = .next { t with result := some (.data v) } ∧
      ∀ (off' : Word) (u : State), validOffset off' = true → off' ≠ off →
        exec (decodeRead off') s = .next u →
        exec (decodeRead off') t = .next { t with result := u.result }

/-- Every word is 0 at reset; afterwards a word changes only by a successful host write of its offset, to
the written value, or, for `IRQ_REG`, by a timer event (from R8; that an unaligned offset has no word is
D6's). -/
def Obligations.BankWordsChangeOnlyAsStated : Prop :=
  (∀ off : Word, State.reset.word off = 0#32) ∧
  ∀ (w : OpWord) (i : Instr) (s t : State) (off : Word),
    decode w = .ok i → exec i s = .next t → validOffset off = true →
    t.word off = s.word off ∨
    (opKind w = kindWrite ∧ opOffset w = off ∧ t.result = some .ok ∧ t.word off = opData w) ∨
    (off = 0x30#32 ∧ (i = .evFrameStart ∨ i = .evFrameEnd))

/-- A failed host access leaves everything as it was but the answer and the hidden `created` bits
(R123, R137; the bits are R101's one exception). -/
def Obligations.FailedAccessLeavesTheState : Prop :=
  ∀ (w : OpWord) (i : Instr) (s t : State) (k : ErrorKind),
    decode w = .ok i → exec i s = .next t → t.result = some (.error k) →
    t = { s with
          result := some (.error k)
          fs := { s.fs with created := t.fs.created }
          fe := { s.fe with created := t.fe.created } } ∧
      (k = .invalidAddress ∨ k = .invalidState ∨ k = .invalidConfig ∨ k = .resourceExhausted)

/-! ## Enable and disable -/

/-- The enable of a configured Idle device: the cache is filled, the device enters Blanking, the
frame-start timer is armed, the raw value is stored, and nothing else changes (R101; D4, D13, D14,
D15, D16). -/
def Obligations.EnableStartsGeneration : Prop :=
  ∀ (v : Word) (s : State) (size : Nat), s.halted = false → v ≠ 0#32 → s.status = .idle →
    s.cache = none → PlaneReady s → TimersReady s → s.word 0x18#32 = 0#32 →
    size = (s.word 0x1C#32).toNat * (s.word 0x20#32).toNat →
    (∀ bound, s.params.maxCacheBytes = some bound → size ≤ bound) →
    size ∉ s.params.allocRefused →
    exec (.wrEnableOn v) s = .next
      { s with
        bank := s.bank.setIfInBounds 0 v
        status := .blanking
        stopRequested := false
        cache := some (List.replicate size 0xDE#8)
        cacheLen := size
        fs := { created := true, pending := true,
                deadline := s.now + (s.word 0x2C#32).toNat * 1000 }
        fe := { s.fe with created := true }
        result := some .ok }

/-- The errors of an enable in the order they are tested, each with all it leaves behind (R101's table;
the order is D17's). -/
def Obligations.EnableErrorsComeInOrder : Prop :=
  ∀ (v : Word) (s : State), s.halted = false → v ≠ 0#32 → 0 < s.chan.length →
    (s.status ≠ .idle →
      exec (.wrEnableOn v) s = .next { s with result := some (.error .invalidState) }) ∧
    (s.status = .idle → s.cache = none → ¬ PlaneReady s →
      exec (.wrEnableOn v) s = .next { s with result := some (.error .invalidConfig) }) ∧
    (s.status = .idle → s.cache = none → PlaneReady s → ¬ TimersReady s →
      exec (.wrEnableOn v) s = .next { s with result := some (.error .resourceExhausted) }) ∧
    (s.status = .idle → s.cache.isSome = true → s.cacheLen ≠ 0 →
      (s.word 0x08#32 ≠ 0#32 ∨ s.word 0x0C#32 ≠ 0#32) → TimersReady s →
      exec (.wrEnableOn v) s =
        .next { withTimers s with result := some (.error .invalidState) }) ∧
    (s.status = .idle → s.cache = none → PlaneReady s → TimersReady s → s.word 0x18#32 ≠ 0#32 →
      exec (.wrEnableOn v) s =
        .next { withTimers s with result := some (.error .invalidConfig) }) ∧
    (s.status = .idle → s.cache = none → PlaneReady s → TimersReady s → s.word 0x18#32 = 0#32 →
      (∃ bound, s.params.maxCacheBytes = some bound ∧
        bound < (s.word 0x1C#32).toNat * (s.word 0x20#32).toNat) ∨
        (s.word 0x1C#32).toNat * (s.word 0x20#32).toNat ∈ s.params.allocRefused →
      exec (.wrEnableOn v) s =
        .next { withTimers s with result := some (.error .resourceExhausted) })

/-- Only format selector 0 has a size, one byte per pixel; the others can be stored and read back, and make
an enable fail with InvalidConfig, the device staying Idle without a cache (from R59; the order of the
enable's checks is D17's). -/
def Obligations.OnlyFormatZeroIsSupported : Prop :=
  bytesPerPixel 0#32 = some 1 ∧
  ∀ f : Word, f ≠ 0#32 →
    bytesPerPixel f = none ∧
    ReadsBackFromReset .wrOutFormat .rdOutFormat f ∧
    ∀ (v : Word) (s : State), s.halted = false → v ≠ 0#32 → s.status = .idle → s.cache = none →
      PlaneReady s → TimersReady s → s.word 0x18#32 = f →
      ∃ t, exec (.wrEnableOn v) s = .next t ∧ t.result = some (.error .invalidConfig) ∧
        t.status = .idle ∧ t.cache = none ∧ t.bank = s.bank

/-- A disable always succeeds and never moves the status: in Idle it releases the cache, otherwise it
requests a stop; no timer is cancelled (R103). -/
def Obligations.DisableRequestsAStop : Prop :=
  ∀ s : State, s.halted = false →
    (s.status = .idle → exec .wrEnableOff s = .next
      { s with bank := s.bank.setIfInBounds 0 0#32, cache := none, cacheLen := 0,
               result := some .ok }) ∧
    (s.status ≠ .idle → exec .wrEnableOff s = .next
      { s with bank := s.bank.setIfInBounds 0 0#32, stopRequested := true, result := some .ok })

/-- An enable before the stop has completed fails and does not cancel the stop: the timer event of the
current phase still takes the device to Idle, with `ENABLE` as it was (R142; the clearing of the stop
flag is D16's). -/
def Obligations.EarlyEnableDoesNotCancelTheStop : Prop :=
  ∀ (v : Word) (s : State), s.halted = false → v ≠ 0#32 → s.status ≠ .idle →
    s.stopRequested = true →
    ∃ u, exec (.wrEnableOn v) s = .next u ∧ u = { s with result := some (.error .invalidState) } ∧
      (s.status = .blanking → s.fs.pending = true → s.fs.deadline ≤ s.now →
        ∃ t, exec .evFrameStart u = .next t ∧ t.status = .idle ∧ t.cache = none ∧
          t.stopRequested = false ∧ t.bank = s.bank) ∧
      (s.status = .frameValid → s.fe.pending = true → s.fe.deadline ≤ s.now →
        ∃ t, exec .evFrameEnd u = .next t ∧ t.status = .idle ∧ t.cache = none ∧
          t.stopRequested = false ∧ t.bank = s.bank)

/-! ## Timer events -/

/-- A frame starts: everything the frame-start event changes but the target space and the log (R106; the
delivery of an unchanged word is D9's). -/
def Obligations.FrameStartEntersFrameValid : Prop :=
  ∀ s : State, s.halted = false → s.fs.pending = true → s.fs.deadline ≤ s.now →
    s.status = .blanking → s.stopRequested = false →
    ∃ t, exec .evFrameStart s = .next t ∧
      blockView t = blockView { s with
        status := .frameValid
        bank := s.bank.setIfInBounds 12 (s.word 0x30#32 ||| 1#32)
        irqLine := s.word 0x30#32 ||| 1#32
        irqTrace := s.irqTrace ++ [s.word 0x30#32 ||| 1#32]
        fs := { s.fs with pending := false }
        fe := { s.fe with pending := true,
                          deadline := s.now + (s.word 0x28#32).toNat * 1000 }
        chan := s.chan.modify 0 fun ch => { ch with status := .idle }
        result := none }

/-- The frame's DMA write: the whole cache at the address now in the address registers when the
environment answers `ok`; nothing outside the range in any case; nothing at all when the range passes the
end of the space; a failure is logged twice and absorbed (R42, R43, R97, R106; D13, D19, D20). -/
def Obligations.FrameStartWritesTheFrame : Prop :=
  ∀ (s : State) (bytes : List Byte) (addr : Nat),
    s.halted = false → s.fs.pending = true → s.fs.deadline ≤ s.now →
    s.status = .blanking → s.stopRequested = false → 0 < s.chan.length →
    s.cache = some bytes → s.cacheLen = bytes.length →
    addr = (planeAddress (s.word 0x0C#32) (s.word 0x08#32)).toNat →
    ∃ t, exec .evFrameStart s = .next t ∧
      (∀ c a, c ≠ 0 ∨ a < addr ∨ addr + bytes.length ≤ a → t.memRead c a = s.memRead c a) ∧
      (addr + bytes.length ≤ 2 ^ 64 → memAnswer s = true →
        (∀ j b, bytes[j]? = some b → t.memRead 0 (addr + j) = some b) ∧ t.log = s.log) ∧
      (addr + bytes.length ≤ 2 ^ 64 → memAnswer s = false →
        t.log = s.log ++ [.dmaCopyFailed, .frameLost]) ∧
      (2 ^ 64 < addr + bytes.length →
        (∀ c a, t.memRead c a = s.memRead c a) ∧ t.log = s.log ++ [.dmaCopyFailed, .frameLost])

/-- A frame ends: the whole effect of the frame-end event when no stop is requested; a channel that is not
idle is logged and does not abort the cycle (R107; D9). -/
def Obligations.FrameEndEntersBlanking : Prop :=
  ∀ s : State, s.halted = false → s.fe.pending = true → s.fe.deadline ≤ s.now →
    s.status = .frameValid → s.stopRequested = false →
    exec .evFrameEnd s = .next
      { s with
        status := .blanking
        bank := s.bank.setIfInBounds 12 (s.word 0x30#32 ||| 2#32)
        irqLine := s.word 0x30#32 ||| 2#32
        irqTrace := s.irqTrace ++ [s.word 0x30#32 ||| 2#32]
        fe := { s.fe with pending := false }
        fs := { s.fs with pending := true,
                          deadline := s.now + (s.word 0x2C#32).toNat * 1000 }
        log := s.log ++ idleCheckEntries s
        result := none }

/-- A requested stop is taken at the next timer boundary of either kind: Idle, the cache released, and no
interrupt, no DMA write and no timer armed (R106, R107; the clearing of the flag is D16's). -/
def Obligations.TimerBoundaryTakesTheStop : Prop :=
  ∀ s : State, s.halted = false → s.stopRequested = true →
    (s.status = .blanking → s.fs.pending = true → s.fs.deadline ≤ s.now →
      exec .evFrameStart s = .next
        { s with status := .idle, stopRequested := false, cache := none, cacheLen := 0,
                 fs := { s.fs with pending := false }, result := none }) ∧
    (s.status = .frameValid → s.fe.pending = true → s.fe.deadline ≤ s.now →
      exec .evFrameEnd s = .next
        { s with status := .idle, stopRequested := false, cache := none, cacheLen := 0,
                 fe := { s.fe with pending := false },
                 log := s.log ++ idleCheckEntries s, result := none })

/-- R109: a timer event in an unexpected status halts the block and changes nothing else beyond the
pending bit of the timer that fired (and the model's answer); under the invariants no step does. -/
def Obligations.UnexpectedTimerEventHalts : Prop :=
  (∀ s : State, s.halted = false → s.fs.pending = true → s.fs.deadline ≤ s.now →
    s.status ≠ .blanking →
    exec .evFrameStart s = .next
      { s with halted := true, fs := { s.fs with pending := false }, result := none }) ∧
  (∀ s : State, s.halted = false → s.fe.pending = true → s.fe.deadline ≤ s.now →
    s.status ≠ .frameValid →
    exec .evFrameEnd s = .next
      { s with halted := true, fe := { s.fe with pending := false }, result := none }) ∧
  (∀ s t : State, Invariants s → step s = .next t → t.halted = false)

/-- The timing of an undisturbed run from an enable at `e`, the lateness being 0: frame-start `k` at
`e + 1000 * (B + k * (B + V))` and frame-end `k` at `e + 1000 * (k + 1) * (B + V)` (R152, which the spec
marks as derived; D2, D3). -/
def Obligations.UndisturbedRunKeepsTheTiming : Prop :=
  ∀ (s : State) (e b v : Nat), Invariants s → RunsUndisturbed s → s.status = .blanking →
    b = (s.word 0x2C#32).toNat → v = (s.word 0x28#32).toNat → s.fs.deadline = e + b * 1000 →
    ∀ k : Nat,
      (∃ t, Host.Core.run Sys2Proof.core (2 * k + 1) s = .next t ∧ t.status = .frameValid ∧
        t.now = e + 1000 * (b + k * (b + v)) ∧ t.fe.deadline = t.now + v * 1000) ∧
      (∃ t, Host.Core.run Sys2Proof.core (2 * k + 2) s = .next t ∧ t.status = .blanking ∧
        t.now = e + 1000 * ((k + 1) * (b + v)) ∧ t.fs.deadline = t.now + b * 1000)

/-! ## The interrupt word and line -/

/-- R111: `set_irq` drives the line unconditionally and records every delivery; 0 deasserts the line and
any other value asserts it. -/
def Obligations.SetIrqDrivesTheLine : Prop :=
  (∀ (v : Word) (s : State), s.halted = false →
    ∃ t, exec (.intSetIrq v) s = .next t ∧
      t = { s with irqLine := v, irqTrace := s.irqTrace ++ [v], result := none } ∧
      (lineAsserted t.irqLine = true ↔ v ≠ 0#32)) ∧
  (∃ t, exec (.intSetIrq 1#32) State.reset = .next t ∧ t.irqLine = 1#32 ∧
    lineAsserted t.irqLine = true)

/-- `raise_flag` ORs the mask into `IRQ_REG` and delivers the whole word, changed or not (R112; D9). -/
def Obligations.RaiseFlagDeliversTheWord : Prop :=
  ∀ (m : Word) (s : State), s.halted = false →
    exec (.intRaiseFlag m) s = .next
      { s with
        bank := s.bank.setIfInBounds 12 (s.word 0x30#32 ||| m)
        irqLine := s.word 0x30#32 ||| m
        irqTrace := s.irqTrace ++ [s.word 0x30#32 ||| m]
        result := none }

/-- A host write of `IRQ_REG` replaces the whole word, and is forwarded to the line exactly when bit 0 or
bit 1 changes (R113; D8). -/
def Obligations.IrqWriteReplacesAndForwards : Prop :=
  ∀ (v : Word) (s : State), s.halted = false →
    ((s.word 0x30#32).getLsbD 0 ≠ v.getLsbD 0 ∨ (s.word 0x30#32).getLsbD 1 ≠ v.getLsbD 1 →
      exec (.wrIrqReg v) s = .next
        { s with bank := s.bank.setIfInBounds 12 v, irqLine := v,
                 irqTrace := s.irqTrace ++ [v], result := some .ok }) ∧
    ((s.word 0x30#32).getLsbD 0 = v.getLsbD 0 ∧ (s.word 0x30#32).getLsbD 1 = v.getLsbD 1 →
      exec (.wrIrqReg v) s = .next
        { s with bank := s.bank.setIfInBounds 12 v, result := some .ok })

/-- The block sets a flag only in a timer event, bit 0 or bit 1, and delivers the whole word then; no
operation but a host write of `IRQ_REG` clears a bit; the line changes only with a delivery of the whole
word (from R126; the forwarding of a host write is D8's, the delivery D9's). -/
def Obligations.FlagsAreClearedOnlyByTheHost : Prop :=
  ∀ (w : OpWord) (i : Instr) (s t : State), decode w = .ok i → exec i s = .next t →
    ((∀ v, i ≠ .wrIrqReg v) →
      (∀ j, (s.word 0x30#32).getLsbD j = true → (t.word 0x30#32).getLsbD j = true) ∧
      (t.word 0x30#32 ≠ s.word 0x30#32 →
        ((i = .evFrameStart ∧ t.word 0x30#32 = s.word 0x30#32 ||| 1#32) ∨
          (i = .evFrameEnd ∧ t.word 0x30#32 = s.word 0x30#32 ||| 2#32)) ∧
        t.irqTrace = s.irqTrace ++ [t.word 0x30#32])) ∧
    ((t.irqLine = s.irqLine ∧ t.irqTrace = s.irqTrace) ∨
      (t.irqLine = t.word 0x30#32 ∧ t.irqTrace = s.irqTrace ++ [t.word 0x30#32]))

/-- What never touches the interrupt state: every operation but a host write of `IRQ_REG` and a timer
event on its frame path (R115; the error bit is D10's). -/
def Obligations.OtherOperationsLeaveTheInterruptState : Prop :=
  ∀ (w : OpWord) (i : Instr) (s t : State), decode w = .ok i → exec i s = .next t →
    (∀ v, i ≠ .wrIrqReg v) →
    (i = .evFrameStart → s.stopRequested = true ∨ s.status ≠ .blanking) →
    (i = .evFrameEnd → s.stopRequested = true ∨ s.status ≠ .frameValid) →
    t.word 0x30#32 = s.word 0x30#32 ∧ t.irqLine = s.irqLine ∧ t.irqTrace = s.irqTrace

/-- The fields of `IRQ_REG`: three flags and the reserved bits, which share no bit and cover the word
(R19, R54). -/
def Obligations.IrqFieldsAreTheStatedBits : Prop :=
  ∀ v : Word,
    frameStartFlag v = v.getLsbD 0 ∧ frameEndFlag v = v.getLsbD 1 ∧ errorFlag v = v.getLsbD 2 ∧
    reservedBits v = v >>> 3 ∧
    irqFrameStart ||| irqFrameEnd ||| irqError ||| irqReserved = 0xFFFFFFFF#32

/-! ## Status, cache, timers and memory over all operations -/

/-- The status is written by the enable and the two timer events and by nothing else; it is Idle at reset,
and `OUT_STATUS` shows it (from R21; the operation words are D26's). -/
def Obligations.OnlyEnableAndTimersMoveTheStatus : Prop :=
  State.reset.status = .idle ∧
  (∀ s : State, s.halted = false →
    exec .rdOutStatus s = .next { s with result := some (.data (encStatus s.status)) }) ∧
  ∀ (w : OpWord) (i : Instr) (s t : State), decode w = .ok i → exec i s = .next t →
    t.status ≠ s.status → (∃ v, i = .wrEnableOn v) ∨ i = .evFrameStart ∨ i = .evFrameEnd

/-- The transitions of the state machine's figure, with their conditions, and no others (R100; D16). -/
def Obligations.StatusFollowsTheFigure : Prop :=
  ∀ s t : State, step s = .next t →
    t.status = s.status ∨
    (s.status = .idle ∧ t.status = .blanking ∧ t.result = some .ok ∧ t.cache.isSome = true ∧
      t.fs.pending = true) ∨
    (s.status = .blanking ∧ t.status = .frameValid ∧ s.stopRequested = false ∧
      s.fs.pending = true ∧ t.fe.pending = true) ∨
    (s.status = .frameValid ∧ t.status = .blanking ∧ s.stopRequested = false ∧
      s.fe.pending = true ∧ t.fs.pending = true) ∨
    (s.status = .blanking ∧ t.status = .idle ∧ s.stopRequested = true ∧ s.fs.pending = true ∧
      t.cache = none) ∨
    (s.status = .frameValid ∧ t.status = .idle ∧ s.stopRequested = true ∧ s.fe.pending = true ∧
      t.cache = none)

/-- Under the invariants a step leaves the cache as it is, or allocates one of at least one byte, each the
sentinel, in a device that is Idle, or releases it and leaves the device Idle (from R48; that a stop ends
in Idle with its flag cleared is D16's). -/
def Obligations.CacheIsFixedWhileItExists : Prop :=
  ∀ s t : State, Invariants s → step s = .next t →
    (t.cache = s.cache ∧ t.cacheLen = s.cacheLen) ∨
    (s.status = .idle ∧ s.cache = none ∧
      ∃ n, 1 ≤ n ∧ t.cache = some (List.replicate n 0xDE#8) ∧ t.cacheLen = n) ∨
    (t.status = .idle ∧ t.cache = none ∧ t.cacheLen = 0)

/-- R104: `release_cache` removes the cache, does nothing when there is none, and is only ever called when
the status is Idle or is being set to Idle. -/
def Obligations.ReleaseRemovesTheCache : Prop :=
  (∀ s : State, s.halted = false →
    exec .intReleaseCache s = .next { s with cache := none, cacheLen := 0, result := none }) ∧
  (∀ s : State, s.halted = false → s.cache = none → s.cacheLen = 0 →
    exec .intReleaseCache s = .next { s with result := none }) ∧
  (∀ (w : OpWord) (i : Instr) (s t : State), decode w = .ok i → exec i s = .next t →
    s.cache.isSome = true → t.cache = none → t.status = .idle)

/-- No timer is cancelled and none is missed: under the invariants a pending timer keeps its deadline until
it fires, not before the deadline and not later than the lateness allows (R108, R143; D2). -/
def Obligations.PendingTimerKeepsItsDeadline : Prop :=
  ∀ (s t : State) (x : TimerId), Invariants s → step s = .next t → (s.timer x).pending = true →
    (t.timer x = s.timer x ∧ t.now ≤ (s.timer x).deadline + s.params.timerLateness) ∨
    (t.timer x = { s.timer x with pending := false } ∧ (s.timer x).deadline ≤ t.now ∧
      t.now ≤ (s.timer x).deadline + s.params.timerLateness)

/-- Virtual time never decreases (R27). -/
def Obligations.ClockNeverRunsBack : Prop :=
  ∀ s t : State, step s = .next t → s.now ≤ t.now

/-- No operation touches the environment's time, inputs and parameters, the number of channels or a
channel's enable flag (R25, R27; D21). -/
def Obligations.OperationsLeaveTheEnvironment : Prop :=
  ∀ (i : Instr) (s t : State), exec i s = .next t →
    t.now = s.now ∧ t.inbox = s.inbox ∧ t.params = s.params ∧
    t.chan.map Channel.enable = s.chan.map Channel.enable

/-- The target spaces are written by the frame-start event alone, in the range of the primary channel's
plane 0 (R41, R45). -/
def Obligations.OnlyFrameStartWritesMemory : Prop :=
  ∀ (w : OpWord) (i : Instr) (s t : State), decode w = .ok i → exec i s = .next t →
    ∀ c a,
      (i = .evFrameStart → c ≠ 0 ∨
        a < (planeAddress (s.word 0x0C#32) (s.word 0x08#32)).toNat ∨
        (planeAddress (s.word 0x0C#32) (s.word 0x08#32)).toNat + s.cacheLen ≤ a) →
      t.memRead c a = s.memRead c a

/-- A DMA failure changes nothing in the block: what the environment answers to `MemWrite`, and what the
target spaces hold, has no influence on the block's state and outputs, over any step (R121, R137). -/
def Obligations.DmaResultDoesNotReachTheBlock : Prop :=
  ∀ s s' t : State, blockView s = blockView s' → step s = .next t →
    ∃ t', step s' = .next t' ∧ blockView t = blockView t'

/-! ## The internal operations -/

/-- R56: the plane addresses are assembled from their two words, `hi ++ lo`, without a carry, and are
non-zero exactly when one of the words is. -/
def Obligations.PlaneAddressJoinsTheWords : Prop :=
  (∀ hi lo : Word, planeAddress hi lo = hi ++ lo ∧
    (planeAddress hi lo).toNat = hi.toNat * 2 ^ 32 + lo.toNat ∧
    (planeAddress hi lo ≠ 0#64 ↔ hi ≠ 0#32 ∨ lo ≠ 0#32)) ∧
  (∀ s : State, planeAddr 0 0 s = planeAddress (s.word 0x0C#32) (s.word 0x08#32) ∧
    planeAddr 0 1 s = planeAddress (s.word 0x14#32) (s.word 0x10#32)) ∧
  planeAddress 0x00000001#32 0x80001000#32 = 0x0000000180001000#64

/-- `register_write` and `register_read` are the host accesses of their offset, for every offset, and
complete for every offset; a plain offset is stored and nothing else changes (R64, R65; D6). -/
def Obligations.FrameworkFunnelsTheHostAccesses : Prop :=
  ∀ (off v : Word) (s : State), s.halted = false →
    (∃ t, exec (.intRegisterWrite off v) s = .next t ∧ exec (decodeWrite off v) s = .next t ∧
      (validOffset off = true → off ≠ 0x00#32 → off ≠ 0x30#32 →
        t = { s with bank := s.bank.setIfInBounds (off.toNat / 4) v, result := some .ok })) ∧
    (∃ r, exec (.intRegisterRead off) s = .next { s with result := some r } ∧
      exec (decodeRead off) s = .next { s with result := some r } ∧
      (validOffset off = true → off ≠ 0x24#32 → r = .data (s.word off)))

/-- The Pattern Generator's handlers: a write handler arm for `ENABLE` and `IRQ_REG` only, a read handler
arm for `OUT_STATUS` only; neither stores a word (R67, R68; D5, D7). -/
def Obligations.HandlersSpecialCaseThreeOffsets : Prop :=
  ∀ (off v : Word) (s : State), s.halted = false →
    (off ≠ 0x00#32 → off ≠ 0x30#32 →
      exec (.intHandlerWrite off v) s = .next { s with result := some .ok }) ∧
    (∃ t, exec (.intHandlerWrite 0x30#32 v) s = .next t ∧ t.bank = s.bank ∧
      exec (.wrIrqReg v) s = .next { t with bank := s.bank.setIfInBounds 12 v }) ∧
    (∃ t, exec (.intHandlerWrite 0x00#32 v) s = .next t ∧ t.bank = s.bank ∧
      (t.result = some .ok → exec (decodeWrite 0x00#32 v) s =
        .next { t with bank := s.bank.setIfInBounds 0 v }) ∧
      (t.result ≠ some .ok → exec (decodeWrite 0x00#32 v) s = .next t)) ∧
    exec (.intHandlerRead 0x24#32) s =
      .next { s with result := some (.data (encStatus s.status)) } ∧
    (off ≠ 0x24#32 → exec (.intHandlerRead off) s = .next { s with result := some .declined })

/-- `validate_dma_config` answers `ok` exactly when the channel is in range, at most two planes are asked
for, and every plane asked for has a non-zero address and length; otherwise InvalidConfig. It changes
nothing. The plane lengths are R96's view (R95, R96; D13, D17). -/
def Obligations.ValidateDmaConfigAnswersAsStated : Prop :=
  ∀ (channel planeCount : Nat) (s : State), s.halted = false →
    ((channel < s.chan.length ∧ planeCount ≤ 2 ∧
        ∀ p, p < planeCount → planeAddr channel p s ≠ 0#64 ∧ planeLen channel p s ≠ 0) →
      exec (.intValidateDmaConfig channel planeCount) s = .next { s with result := some .ok }) ∧
    (¬ (channel < s.chan.length ∧ planeCount ≤ 2 ∧
        ∀ p, p < planeCount → planeAddr channel p s ≠ 0#64 ∧ planeLen channel p s ≠ 0) →
      exec (.intValidateDmaConfig channel planeCount) s =
        .next { s with result := some (.error .invalidConfig) }) ∧
    (s.cache = none → planeLen 0 0 s = (s.word 0x1C#32).toNat * (s.word 0x20#32).toNat) ∧
    (s.cache.isSome = true → planeLen 0 0 s = s.cacheLen) ∧ planeLen 0 1 s = 0 ∧
    (∀ c p, c ≠ 0 → planeAddr c p s = 0#64 ∧ planeLen c p s = 0)

/-- `dma_write` with a channel and plane in range: the channel is idle afterwards whatever the copy's
result is; the first `length` bytes of the buffer go to the plane's address; a failure is logged. Out of
range it fails and changes nothing (R97; D19, D35). -/
def Obligations.DmaWriteCopiesTheBuffer : Prop :=
  ∀ (channel plane addr length : Nat) (buffer : List Byte) (s : State), s.halted = false →
    length ≤ buffer.length → addr = (planeAddr channel plane s).toNat →
    (channel < s.chan.length → plane < 2 →
      ∃ t, exec (.intDmaWrite channel buffer length plane) s = .next t ∧
        t.chanStatus channel = some .idle ∧
        (∀ c a, c ≠ channel ∨ a < addr ∨ addr + length ≤ a → t.memRead c a = s.memRead c a) ∧
        (addr + length ≤ 2 ^ 64 → memAnswer s = true →
          t.result = some .ok ∧ t.log = s.log ∧
          ∀ j b, j < length → buffer[j]? = some b → t.memRead channel (addr + j) = some b) ∧
        (2 ^ 64 < addr + length ∨ memAnswer s = false →
          t.result = some (.error .dmaFailure) ∧ t.log = s.log ++ [.dmaCopyFailed]) ∧
        (2 ^ 64 < addr + length → ∀ c a, t.memRead c a = s.memRead c a) ∧
        blockView t = blockView { s with
          result := t.result
          chan := s.chan.modify channel fun ch => { ch with status := .idle } }) ∧
    (s.chan.length ≤ channel ∨ 2 ≤ plane →
      exec (.intDmaWrite channel buffer length plane) s =
        .next { s with result := some (.error .invalidConfig) })

/-- `MemWrite` in the primary channel's space: `ok` stores the bytes, `fail` leaves everything outside the
range, and a range that passes 2^64 is refused with nothing written (R42, R43, R99; D19; that it is the
primary channel's space is log entry 12's). -/
def Obligations.MemWriteAnswersAsTheEnvironment : Prop :=
  ∀ (addr : Addr) (bytes : List Byte) (s : State), s.halted = false → 0 < s.chan.length →
    ∃ t, exec (.intMemWrite addr bytes.length bytes) s = .next t ∧
      (∀ c a, c ≠ 0 ∨ a < addr.toNat ∨ addr.toNat + bytes.length ≤ a →
        t.memRead c a = s.memRead c a) ∧
      (addr.toNat + bytes.length ≤ 2 ^ 64 → memAnswer s = true → t.result = some .ok ∧
        ∀ j b, bytes[j]? = some b → t.memRead 0 (addr.toNat + j) = some b) ∧
      (addr.toNat + bytes.length ≤ 2 ^ 64 → memAnswer s = false → t.result = some .fail) ∧
      (2 ^ 64 < addr.toNat + bytes.length → t = { s with result := some .fail }) ∧
      blockView t = blockView { s with result := t.result }

/-- `create_timers` creates the handles that do not exist, and fails when the environment cannot
(R110; D15). -/
def Obligations.CreateTimersMakesTheHandles : Prop :=
  ∀ s : State, s.halted = false →
    (TimersReady s →
      exec .intCreateTimers s = .next { withTimers s with result := some .ok }) ∧
    (¬ TimersReady s →
      exec .intCreateTimers s = .next { s with result := some (.error .resourceExhausted) })

/-- `alloc_cache` fills a cache of width times height sentinel bytes and latches its length, or fails in
the order existing cache, format, allocation (R102; D14, D15, D17, D32). -/
def Obligations.AllocCacheFillsTheCache : Prop :=
  ∀ (s : State) (size : Nat), s.halted = false →
    size = (s.word 0x1C#32).toNat * (s.word 0x20#32).toNat →
    (s.cache.isSome = true →
      exec .intAllocCache s = .next { s with result := some (.error .invalidState) }) ∧
    (s.cache = none → s.word 0x18#32 ≠ 0#32 →
      exec .intAllocCache s = .next { s with result := some (.error .invalidConfig) }) ∧
    (s.cache = none → s.word 0x18#32 = 0#32 →
      ((∀ bound, s.params.maxCacheBytes = some bound → size ≤ bound) ∧
          size ∉ s.params.allocRefused →
        exec .intAllocCache s = .next
          { s with cache := some (List.replicate size 0xDE#8), cacheLen := size,
                   result := some .ok }) ∧
      ((∃ bound, s.params.maxCacheBytes = some bound ∧ bound < size) ∨
          size ∈ s.params.allocRefused →
        exec .intAllocCache s =
          .next { s with result := some (.error .resourceExhausted) }))

/-- `arm` sets the deadline to now plus the duration in microseconds, without wrap, and the timer pending;
a pending timer gets the new deadline (R57, R105; D3, D31). -/
def Obligations.ArmSetsTheDeadline : Prop :=
  ∀ (d : Word) (s : State), s.halted = false →
    exec (.intArm .fs d) s = .next
      { s with fs := { s.fs with pending := true, deadline := s.now + d.toNat * 1000 },
               result := none } ∧
    exec (.intArm .fe d) s = .next
      { s with fe := { s.fe with pending := true, deadline := s.now + d.toNat * 1000 },
               result := none }

/-- A register write's integer is 0 on success and a negative code on an error, distinct for distinct
kinds, whatever the codes are (R124; D18). -/
def Obligations.ResultCodesAreNegativeErrors : Prop :=
  ∀ codes : Config.ErrCodes,
    resultCode codes .ok = some 0 ∧
    ∀ k : ErrorKind, ∃ n : Int, resultCode codes (.error k) = some n ∧ n < 0 ∧
      ∀ k', resultCode codes (.error k') = some n → k' = k
end

