-- ==== Sys2Proof/Laws/State.lean ====
section
/-! SUPPORT. What each update of the state does to each field, so that no proof unfolds an update. -/

namespace Sys2Proof.Machine

@[simp] theorem withResult_bank (s : State) (r : Option Result) :
    (s.withResult r).bank = s.bank := rfl
@[simp] theorem withResult_status (s : State) (r : Option Result) :
    (s.withResult r).status = s.status := rfl
@[simp] theorem withResult_stopRequested (s : State) (r : Option Result) :
    (s.withResult r).stopRequested = s.stopRequested := rfl
@[simp] theorem withResult_fs (s : State) (r : Option Result) : (s.withResult r).fs = s.fs := rfl
@[simp] theorem withResult_fe (s : State) (r : Option Result) : (s.withResult r).fe = s.fe := rfl
@[simp] theorem withResult_cache (s : State) (r : Option Result) :
    (s.withResult r).cache = s.cache := rfl
@[simp] theorem withResult_cacheLen (s : State) (r : Option Result) :
    (s.withResult r).cacheLen = s.cacheLen := rfl
@[simp] theorem withResult_chan (s : State) (r : Option Result) :
    (s.withResult r).chan = s.chan := rfl
@[simp] theorem withResult_irqLine (s : State) (r : Option Result) :
    (s.withResult r).irqLine = s.irqLine := rfl
@[simp] theorem withResult_irqTrace (s : State) (r : Option Result) :
    (s.withResult r).irqTrace = s.irqTrace := rfl
@[simp] theorem withResult_halted (s : State) (r : Option Result) :
    (s.withResult r).halted = s.halted := rfl
@[simp] theorem withResult_now (s : State) (r : Option Result) : (s.withResult r).now = s.now := rfl
@[simp] theorem withResult_inbox (s : State) (r : Option Result) :
    (s.withResult r).inbox = s.inbox := rfl
@[simp] theorem withResult_memAnswers (s : State) (r : Option Result) :
    (s.withResult r).memAnswers = s.memAnswers := rfl
@[simp] theorem withResult_params (s : State) (r : Option Result) :
    (s.withResult r).params = s.params := rfl
@[simp] theorem withResult_draws (s : State) (r : Option Result) :
    (s.withResult r).draws = s.draws := rfl
@[simp] theorem withResult_result (s : State) (r : Option Result) :
    (s.withResult r).result = r := rfl
@[simp] theorem withResult_log (s : State) (r : Option Result) : (s.withResult r).log = s.log := rfl

@[simp] theorem setWord_bank (s : State) (off v : Word) :
    (s.setWord off v).bank = s.bank.setIfInBounds (bankIndex off) v := rfl
@[simp] theorem setWord_status (s : State) (off v : Word) :
    (s.setWord off v).status = s.status := rfl
@[simp] theorem setWord_stopRequested (s : State) (off v : Word) :
    (s.setWord off v).stopRequested = s.stopRequested := rfl
@[simp] theorem setWord_fs (s : State) (off v : Word) : (s.setWord off v).fs = s.fs := rfl
@[simp] theorem setWord_fe (s : State) (off v : Word) : (s.setWord off v).fe = s.fe := rfl
@[simp] theorem setWord_cache (s : State) (off v : Word) : (s.setWord off v).cache = s.cache := rfl
@[simp] theorem setWord_cacheLen (s : State) (off v : Word) :
    (s.setWord off v).cacheLen = s.cacheLen := rfl
@[simp] theorem setWord_chan (s : State) (off v : Word) : (s.setWord off v).chan = s.chan := rfl
@[simp] theorem setWord_irqLine (s : State) (off v : Word) :
    (s.setWord off v).irqLine = s.irqLine := rfl
@[simp] theorem setWord_irqTrace (s : State) (off v : Word) :
    (s.setWord off v).irqTrace = s.irqTrace := rfl
@[simp] theorem setWord_halted (s : State) (off v : Word) :
    (s.setWord off v).halted = s.halted := rfl
@[simp] theorem setWord_now (s : State) (off v : Word) : (s.setWord off v).now = s.now := rfl
@[simp] theorem setWord_inbox (s : State) (off v : Word) : (s.setWord off v).inbox = s.inbox := rfl
@[simp] theorem setWord_memAnswers (s : State) (off v : Word) :
    (s.setWord off v).memAnswers = s.memAnswers := rfl
@[simp] theorem setWord_params (s : State) (off v : Word) :
    (s.setWord off v).params = s.params := rfl
@[simp] theorem setWord_draws (s : State) (off v : Word) : (s.setWord off v).draws = s.draws := rfl
@[simp] theorem setWord_result (s : State) (off v : Word) :
    (s.setWord off v).result = s.result := rfl
@[simp] theorem setWord_log (s : State) (off v : Word) : (s.setWord off v).log = s.log := rfl

@[simp] theorem setReg_bank (s : State) (x : RegName) (v : Word) :
    (s.setReg x v).bank = s.bank.setIfInBounds (bankIndex (regOffset x)) v := rfl
@[simp] theorem setReg_status (s : State) (x : RegName) (v : Word) :
    (s.setReg x v).status = s.status := rfl
@[simp] theorem setReg_stopRequested (s : State) (x : RegName) (v : Word) :
    (s.setReg x v).stopRequested = s.stopRequested := rfl
@[simp] theorem setReg_fs (s : State) (x : RegName) (v : Word) : (s.setReg x v).fs = s.fs := rfl
@[simp] theorem setReg_fe (s : State) (x : RegName) (v : Word) : (s.setReg x v).fe = s.fe := rfl
@[simp] theorem setReg_cache (s : State) (x : RegName) (v : Word) :
    (s.setReg x v).cache = s.cache := rfl
@[simp] theorem setReg_cacheLen (s : State) (x : RegName) (v : Word) :
    (s.setReg x v).cacheLen = s.cacheLen := rfl
@[simp] theorem setReg_chan (s : State) (x : RegName) (v : Word) :
    (s.setReg x v).chan = s.chan := rfl
@[simp] theorem setReg_irqLine (s : State) (x : RegName) (v : Word) :
    (s.setReg x v).irqLine = s.irqLine := rfl
@[simp] theorem setReg_irqTrace (s : State) (x : RegName) (v : Word) :
    (s.setReg x v).irqTrace = s.irqTrace := rfl
@[simp] theorem setReg_halted (s : State) (x : RegName) (v : Word) :
    (s.setReg x v).halted = s.halted := rfl
@[simp] theorem setReg_now (s : State) (x : RegName) (v : Word) : (s.setReg x v).now = s.now := rfl
@[simp] theorem setReg_inbox (s : State) (x : RegName) (v : Word) :
    (s.setReg x v).inbox = s.inbox := rfl
@[simp] theorem setReg_memAnswers (s : State) (x : RegName) (v : Word) :
    (s.setReg x v).memAnswers = s.memAnswers := rfl
@[simp] theorem setReg_params (s : State) (x : RegName) (v : Word) :
    (s.setReg x v).params = s.params := rfl
@[simp] theorem setReg_draws (s : State) (x : RegName) (v : Word) :
    (s.setReg x v).draws = s.draws := rfl
@[simp] theorem setReg_result (s : State) (x : RegName) (v : Word) :
    (s.setReg x v).result = s.result := rfl
@[simp] theorem setReg_log (s : State) (x : RegName) (v : Word) : (s.setReg x v).log = s.log := rfl

@[simp] theorem logged_bank (s : State) (l : List LogEntry) : (s.logged l).bank = s.bank := rfl
@[simp] theorem logged_status (s : State) (l : List LogEntry) :
    (s.logged l).status = s.status := rfl
@[simp] theorem logged_stopRequested (s : State) (l : List LogEntry) :
    (s.logged l).stopRequested = s.stopRequested := rfl
@[simp] theorem logged_fs (s : State) (l : List LogEntry) : (s.logged l).fs = s.fs := rfl
@[simp] theorem logged_fe (s : State) (l : List LogEntry) : (s.logged l).fe = s.fe := rfl
@[simp] theorem logged_cache (s : State) (l : List LogEntry) : (s.logged l).cache = s.cache := rfl
@[simp] theorem logged_cacheLen (s : State) (l : List LogEntry) :
    (s.logged l).cacheLen = s.cacheLen := rfl
@[simp] theorem logged_chan (s : State) (l : List LogEntry) : (s.logged l).chan = s.chan := rfl
@[simp] theorem logged_irqLine (s : State) (l : List LogEntry) :
    (s.logged l).irqLine = s.irqLine := rfl
@[simp] theorem logged_irqTrace (s : State) (l : List LogEntry) :
    (s.logged l).irqTrace = s.irqTrace := rfl
@[simp] theorem logged_halted (s : State) (l : List LogEntry) :
    (s.logged l).halted = s.halted := rfl
@[simp] theorem logged_now (s : State) (l : List LogEntry) : (s.logged l).now = s.now := rfl
@[simp] theorem logged_inbox (s : State) (l : List LogEntry) : (s.logged l).inbox = s.inbox := rfl
@[simp] theorem logged_memAnswers (s : State) (l : List LogEntry) :
    (s.logged l).memAnswers = s.memAnswers := rfl
@[simp] theorem logged_params (s : State) (l : List LogEntry) :
    (s.logged l).params = s.params := rfl
@[simp] theorem logged_draws (s : State) (l : List LogEntry) : (s.logged l).draws = s.draws := rfl
@[simp] theorem logged_result (s : State) (l : List LogEntry) :
    (s.logged l).result = s.result := rfl
@[simp] theorem logged_log (s : State) (l : List LogEntry) : (s.logged l).log = s.log ++ l := rfl

@[simp] theorem setTimer_bank (s : State) (t : TimerId) (v : Timer) :
    (s.setTimer t v).bank = s.bank := by cases t <;> rfl
@[simp] theorem setTimer_status (s : State) (t : TimerId) (v : Timer) :
    (s.setTimer t v).status = s.status := by cases t <;> rfl
@[simp] theorem setTimer_stopRequested (s : State) (t : TimerId) (v : Timer) :
    (s.setTimer t v).stopRequested = s.stopRequested := by cases t <;> rfl
@[simp] theorem setTimer_fs (s : State) (t : TimerId) (v : Timer) :
    (s.setTimer t v).fs = if t = .fs then v else s.fs := by cases t <;> rfl
@[simp] theorem setTimer_fe (s : State) (t : TimerId) (v : Timer) :
    (s.setTimer t v).fe = if t = .fe then v else s.fe := by cases t <;> rfl
@[simp] theorem setTimer_cache (s : State) (t : TimerId) (v : Timer) :
    (s.setTimer t v).cache = s.cache := by cases t <;> rfl
@[simp] theorem setTimer_cacheLen (s : State) (t : TimerId) (v : Timer) :
    (s.setTimer t v).cacheLen = s.cacheLen := by cases t <;> rfl
@[simp] theorem setTimer_chan (s : State) (t : TimerId) (v : Timer) :
    (s.setTimer t v).chan = s.chan := by cases t <;> rfl
@[simp] theorem setTimer_irqLine (s : State) (t : TimerId) (v : Timer) :
    (s.setTimer t v).irqLine = s.irqLine := by cases t <;> rfl
@[simp] theorem setTimer_irqTrace (s : State) (t : TimerId) (v : Timer) :
    (s.setTimer t v).irqTrace = s.irqTrace := by cases t <;> rfl
@[simp] theorem setTimer_halted (s : State) (t : TimerId) (v : Timer) :
    (s.setTimer t v).halted = s.halted := by cases t <;> rfl
@[simp] theorem setTimer_now (s : State) (t : TimerId) (v : Timer) :
    (s.setTimer t v).now = s.now := by cases t <;> rfl
@[simp] theorem setTimer_inbox (s : State) (t : TimerId) (v : Timer) :
    (s.setTimer t v).inbox = s.inbox := by cases t <;> rfl
@[simp] theorem setTimer_memAnswers (s : State) (t : TimerId) (v : Timer) :
    (s.setTimer t v).memAnswers = s.memAnswers := by cases t <;> rfl
@[simp] theorem setTimer_params (s : State) (t : TimerId) (v : Timer) :
    (s.setTimer t v).params = s.params := by cases t <;> rfl
@[simp] theorem setTimer_draws (s : State) (t : TimerId) (v : Timer) :
    (s.setTimer t v).draws = s.draws := by cases t <;> rfl
@[simp] theorem setTimer_result (s : State) (t : TimerId) (v : Timer) :
    (s.setTimer t v).result = s.result := by cases t <;> rfl
@[simp] theorem setTimer_log (s : State) (t : TimerId) (v : Timer) :
    (s.setTimer t v).log = s.log := by cases t <;> rfl

@[simp] theorem setChanStatus_bank (s : State) (c : Nat) (st : ChanStatus) :
    (s.setChanStatus c st).bank = s.bank := rfl
@[simp] theorem setChanStatus_status (s : State) (c : Nat) (st : ChanStatus) :
    (s.setChanStatus c st).status = s.status := rfl
@[simp] theorem setChanStatus_stopRequested (s : State) (c : Nat) (st : ChanStatus) :
    (s.setChanStatus c st).stopRequested = s.stopRequested := rfl
@[simp] theorem setChanStatus_fs (s : State) (c : Nat) (st : ChanStatus) :
    (s.setChanStatus c st).fs = s.fs := rfl
@[simp] theorem setChanStatus_fe (s : State) (c : Nat) (st : ChanStatus) :
    (s.setChanStatus c st).fe = s.fe := rfl
@[simp] theorem setChanStatus_cache (s : State) (c : Nat) (st : ChanStatus) :
    (s.setChanStatus c st).cache = s.cache := rfl
@[simp] theorem setChanStatus_cacheLen (s : State) (c : Nat) (st : ChanStatus) :
    (s.setChanStatus c st).cacheLen = s.cacheLen := rfl
@[simp] theorem setChanStatus_chan (s : State) (c : Nat) (st : ChanStatus) :
    (s.setChanStatus c st).chan = s.chan.modify c fun ch => { ch with status := st } := rfl
@[simp] theorem setChanStatus_irqLine (s : State) (c : Nat) (st : ChanStatus) :
    (s.setChanStatus c st).irqLine = s.irqLine := rfl
@[simp] theorem setChanStatus_irqTrace (s : State) (c : Nat) (st : ChanStatus) :
    (s.setChanStatus c st).irqTrace = s.irqTrace := rfl
@[simp] theorem setChanStatus_halted (s : State) (c : Nat) (st : ChanStatus) :
    (s.setChanStatus c st).halted = s.halted := rfl
@[simp] theorem setChanStatus_now (s : State) (c : Nat) (st : ChanStatus) :
    (s.setChanStatus c st).now = s.now := rfl
@[simp] theorem setChanStatus_inbox (s : State) (c : Nat) (st : ChanStatus) :
    (s.setChanStatus c st).inbox = s.inbox := rfl
@[simp] theorem setChanStatus_memAnswers (s : State) (c : Nat) (st : ChanStatus) :
    (s.setChanStatus c st).memAnswers = s.memAnswers := rfl
@[simp] theorem setChanStatus_params (s : State) (c : Nat) (st : ChanStatus) :
    (s.setChanStatus c st).params = s.params := rfl
@[simp] theorem setChanStatus_draws (s : State) (c : Nat) (st : ChanStatus) :
    (s.setChanStatus c st).draws = s.draws := rfl
@[simp] theorem setChanStatus_result (s : State) (c : Nat) (st : ChanStatus) :
    (s.setChanStatus c st).result = s.result := rfl
@[simp] theorem setChanStatus_log (s : State) (c : Nat) (st : ChanStatus) :
    (s.setChanStatus c st).log = s.log := rfl

@[simp] theorem setIrq_bank (s : State) (v : Word) : (setIrq v s).bank = s.bank := rfl
@[simp] theorem setIrq_status (s : State) (v : Word) : (setIrq v s).status = s.status := rfl
@[simp] theorem setIrq_stopRequested (s : State) (v : Word) :
    (setIrq v s).stopRequested = s.stopRequested := rfl
@[simp] theorem setIrq_fs (s : State) (v : Word) : (setIrq v s).fs = s.fs := rfl
@[simp] theorem setIrq_fe (s : State) (v : Word) : (setIrq v s).fe = s.fe := rfl
@[simp] theorem setIrq_cache (s : State) (v : Word) : (setIrq v s).cache = s.cache := rfl
@[simp] theorem setIrq_cacheLen (s : State) (v : Word) : (setIrq v s).cacheLen = s.cacheLen := rfl
@[simp] theorem setIrq_chan (s : State) (v : Word) : (setIrq v s).chan = s.chan := rfl
@[simp] theorem setIrq_irqLine (s : State) (v : Word) : (setIrq v s).irqLine = v := rfl
@[simp] theorem setIrq_irqTrace (s : State) (v : Word) :
    (setIrq v s).irqTrace = s.irqTrace ++ [v] := rfl
@[simp] theorem setIrq_halted (s : State) (v : Word) : (setIrq v s).halted = s.halted := rfl
@[simp] theorem setIrq_now (s : State) (v : Word) : (setIrq v s).now = s.now := rfl
@[simp] theorem setIrq_inbox (s : State) (v : Word) : (setIrq v s).inbox = s.inbox := rfl
@[simp] theorem setIrq_memAnswers (s : State) (v : Word) :
    (setIrq v s).memAnswers = s.memAnswers := rfl
@[simp] theorem setIrq_params (s : State) (v : Word) : (setIrq v s).params = s.params := rfl
@[simp] theorem setIrq_draws (s : State) (v : Word) : (setIrq v s).draws = s.draws := rfl
@[simp] theorem setIrq_result (s : State) (v : Word) : (setIrq v s).result = s.result := rfl
@[simp] theorem setIrq_log (s : State) (v : Word) : (setIrq v s).log = s.log := rfl

@[simp] theorem raiseFlag_bank (s : State) (m : Word) :
    (raiseFlag m s).bank = s.bank.setIfInBounds (bankIndex (regOffset .irqReg)) (s.reg .irqReg ||| m) := rfl
@[simp] theorem raiseFlag_status (s : State) (m : Word) : (raiseFlag m s).status = s.status := rfl
@[simp] theorem raiseFlag_stopRequested (s : State) (m : Word) :
    (raiseFlag m s).stopRequested = s.stopRequested := rfl
@[simp] theorem raiseFlag_fs (s : State) (m : Word) : (raiseFlag m s).fs = s.fs := rfl
@[simp] theorem raiseFlag_fe (s : State) (m : Word) : (raiseFlag m s).fe = s.fe := rfl
@[simp] theorem raiseFlag_cache (s : State) (m : Word) : (raiseFlag m s).cache = s.cache := rfl
@[simp] theorem raiseFlag_cacheLen (s : State) (m : Word) :
    (raiseFlag m s).cacheLen = s.cacheLen := rfl
@[simp] theorem raiseFlag_chan (s : State) (m : Word) : (raiseFlag m s).chan = s.chan := rfl
@[simp] theorem raiseFlag_halted (s : State) (m : Word) : (raiseFlag m s).halted = s.halted := rfl
@[simp] theorem raiseFlag_now (s : State) (m : Word) : (raiseFlag m s).now = s.now := rfl
@[simp] theorem raiseFlag_inbox (s : State) (m : Word) : (raiseFlag m s).inbox = s.inbox := rfl
@[simp] theorem raiseFlag_memAnswers (s : State) (m : Word) :
    (raiseFlag m s).memAnswers = s.memAnswers := rfl
@[simp] theorem raiseFlag_params (s : State) (m : Word) : (raiseFlag m s).params = s.params := rfl
@[simp] theorem raiseFlag_draws (s : State) (m : Word) : (raiseFlag m s).draws = s.draws := rfl
@[simp] theorem raiseFlag_result (s : State) (m : Word) : (raiseFlag m s).result = s.result := rfl
@[simp] theorem raiseFlag_log (s : State) (m : Word) : (raiseFlag m s).log = s.log := rfl

@[simp] theorem arm_bank (s : State) (t : TimerId) (d : Word) :
    (arm t d s).bank = s.bank := by cases t <;> rfl
@[simp] theorem arm_status (s : State) (t : TimerId) (d : Word) :
    (arm t d s).status = s.status := by cases t <;> rfl
@[simp] theorem arm_stopRequested (s : State) (t : TimerId) (d : Word) :
    (arm t d s).stopRequested = s.stopRequested := by cases t <;> rfl
@[simp] theorem arm_fs (s : State) (t : TimerId) (d : Word) :
    (arm t d s).fs = if t = .fs then { s.fs with pending := true, deadline := deadlineAfter s.now d } else s.fs := by cases t <;> rfl
@[simp] theorem arm_fe (s : State) (t : TimerId) (d : Word) :
    (arm t d s).fe = if t = .fe then { s.fe with pending := true, deadline := deadlineAfter s.now d } else s.fe := by cases t <;> rfl
@[simp] theorem arm_cache (s : State) (t : TimerId) (d : Word) :
    (arm t d s).cache = s.cache := by cases t <;> rfl
@[simp] theorem arm_cacheLen (s : State) (t : TimerId) (d : Word) :
    (arm t d s).cacheLen = s.cacheLen := by cases t <;> rfl
@[simp] theorem arm_chan (s : State) (t : TimerId) (d : Word) :
    (arm t d s).chan = s.chan := by cases t <;> rfl
@[simp] theorem arm_irqLine (s : State) (t : TimerId) (d : Word) :
    (arm t d s).irqLine = s.irqLine := by cases t <;> rfl
@[simp] theorem arm_irqTrace (s : State) (t : TimerId) (d : Word) :
    (arm t d s).irqTrace = s.irqTrace := by cases t <;> rfl
@[simp] theorem arm_halted (s : State) (t : TimerId) (d : Word) :
    (arm t d s).halted = s.halted := by cases t <;> rfl
@[simp] theorem arm_now (s : State) (t : TimerId) (d : Word) :
    (arm t d s).now = s.now := by cases t <;> rfl
@[simp] theorem arm_inbox (s : State) (t : TimerId) (d : Word) :
    (arm t d s).inbox = s.inbox := by cases t <;> rfl
@[simp] theorem arm_memAnswers (s : State) (t : TimerId) (d : Word) :
    (arm t d s).memAnswers = s.memAnswers := by cases t <;> rfl
@[simp] theorem arm_params (s : State) (t : TimerId) (d : Word) :
    (arm t d s).params = s.params := by cases t <;> rfl
@[simp] theorem arm_draws (s : State) (t : TimerId) (d : Word) :
    (arm t d s).draws = s.draws := by cases t <;> rfl
@[simp] theorem arm_result (s : State) (t : TimerId) (d : Word) :
    (arm t d s).result = s.result := by cases t <;> rfl
@[simp] theorem arm_log (s : State) (t : TimerId) (d : Word) :
    (arm t d s).log = s.log := by cases t <;> rfl

@[simp] theorem clearPending_bank (s : State) (t : TimerId) :
    (clearPending t s).bank = s.bank := by cases t <;> rfl
@[simp] theorem clearPending_status (s : State) (t : TimerId) :
    (clearPending t s).status = s.status := by cases t <;> rfl
@[simp] theorem clearPending_stopRequested (s : State) (t : TimerId) :
    (clearPending t s).stopRequested = s.stopRequested := by cases t <;> rfl
@[simp] theorem clearPending_fs (s : State) (t : TimerId) :
    (clearPending t s).fs = if t = .fs then { s.fs with pending := false } else s.fs := by cases t <;> rfl
@[simp] theorem clearPending_fe (s : State) (t : TimerId) :
    (clearPending t s).fe = if t = .fe then { s.fe with pending := false } else s.fe := by cases t <;> rfl
@[simp] theorem clearPending_cache (s : State) (t : TimerId) :
    (clearPending t s).cache = s.cache := by cases t <;> rfl
@[simp] theorem clearPending_cacheLen (s : State) (t : TimerId) :
    (clearPending t s).cacheLen = s.cacheLen := by cases t <;> rfl
@[simp] theorem clearPending_chan (s : State) (t : TimerId) :
    (clearPending t s).chan = s.chan := by cases t <;> rfl
@[simp] theorem clearPending_irqLine (s : State) (t : TimerId) :
    (clearPending t s).irqLine = s.irqLine := by cases t <;> rfl
@[simp] theorem clearPending_irqTrace (s : State) (t : TimerId) :
    (clearPending t s).irqTrace = s.irqTrace := by cases t <;> rfl
@[simp] theorem clearPending_halted (s : State) (t : TimerId) :
    (clearPending t s).halted = s.halted := by cases t <;> rfl
@[simp] theorem clearPending_now (s : State) (t : TimerId) :
    (clearPending t s).now = s.now := by cases t <;> rfl
@[simp] theorem clearPending_inbox (s : State) (t : TimerId) :
    (clearPending t s).inbox = s.inbox := by cases t <;> rfl
@[simp] theorem clearPending_memAnswers (s : State) (t : TimerId) :
    (clearPending t s).memAnswers = s.memAnswers := by cases t <;> rfl
@[simp] theorem clearPending_params (s : State) (t : TimerId) :
    (clearPending t s).params = s.params := by cases t <;> rfl
@[simp] theorem clearPending_draws (s : State) (t : TimerId) :
    (clearPending t s).draws = s.draws := by cases t <;> rfl
@[simp] theorem clearPending_result (s : State) (t : TimerId) :
    (clearPending t s).result = s.result := by cases t <;> rfl
@[simp] theorem clearPending_log (s : State) (t : TimerId) :
    (clearPending t s).log = s.log := by cases t <;> rfl

@[simp] theorem releaseCache_bank (s : State) : (releaseCache s).bank = s.bank := rfl
@[simp] theorem releaseCache_status (s : State) : (releaseCache s).status = s.status := rfl
@[simp] theorem releaseCache_stopRequested (s : State) :
    (releaseCache s).stopRequested = s.stopRequested := rfl
@[simp] theorem releaseCache_fs (s : State) : (releaseCache s).fs = s.fs := rfl
@[simp] theorem releaseCache_fe (s : State) : (releaseCache s).fe = s.fe := rfl
@[simp] theorem releaseCache_cache (s : State) : (releaseCache s).cache = none := rfl
@[simp] theorem releaseCache_cacheLen (s : State) : (releaseCache s).cacheLen = 0 := rfl
@[simp] theorem releaseCache_chan (s : State) : (releaseCache s).chan = s.chan := rfl
@[simp] theorem releaseCache_irqLine (s : State) : (releaseCache s).irqLine = s.irqLine := rfl
@[simp] theorem releaseCache_irqTrace (s : State) : (releaseCache s).irqTrace = s.irqTrace := rfl
@[simp] theorem releaseCache_halted (s : State) : (releaseCache s).halted = s.halted := rfl
@[simp] theorem releaseCache_now (s : State) : (releaseCache s).now = s.now := rfl
@[simp] theorem releaseCache_inbox (s : State) : (releaseCache s).inbox = s.inbox := rfl
@[simp] theorem releaseCache_memAnswers (s : State) :
    (releaseCache s).memAnswers = s.memAnswers := rfl
@[simp] theorem releaseCache_params (s : State) : (releaseCache s).params = s.params := rfl
@[simp] theorem releaseCache_draws (s : State) : (releaseCache s).draws = s.draws := rfl
@[simp] theorem releaseCache_result (s : State) : (releaseCache s).result = s.result := rfl
@[simp] theorem releaseCache_log (s : State) : (releaseCache s).log = s.log := rfl

@[simp] theorem stopGeneration_bank (s : State) : (stopGeneration s).bank = s.bank := rfl
@[simp] theorem stopGeneration_status (s : State) : (stopGeneration s).status = .idle := rfl
@[simp] theorem stopGeneration_stopRequested (s : State) :
    (stopGeneration s).stopRequested = false := rfl
@[simp] theorem stopGeneration_fs (s : State) : (stopGeneration s).fs = s.fs := rfl
@[simp] theorem stopGeneration_fe (s : State) : (stopGeneration s).fe = s.fe := rfl
@[simp] theorem stopGeneration_cache (s : State) : (stopGeneration s).cache = none := rfl
@[simp] theorem stopGeneration_cacheLen (s : State) : (stopGeneration s).cacheLen = 0 := rfl
@[simp] theorem stopGeneration_chan (s : State) : (stopGeneration s).chan = s.chan := rfl
@[simp] theorem stopGeneration_irqLine (s : State) : (stopGeneration s).irqLine = s.irqLine := rfl
@[simp] theorem stopGeneration_irqTrace (s : State) :
    (stopGeneration s).irqTrace = s.irqTrace := rfl
@[simp] theorem stopGeneration_halted (s : State) : (stopGeneration s).halted = s.halted := rfl
@[simp] theorem stopGeneration_now (s : State) : (stopGeneration s).now = s.now := rfl
@[simp] theorem stopGeneration_inbox (s : State) : (stopGeneration s).inbox = s.inbox := rfl
@[simp] theorem stopGeneration_memAnswers (s : State) :
    (stopGeneration s).memAnswers = s.memAnswers := rfl
@[simp] theorem stopGeneration_params (s : State) : (stopGeneration s).params = s.params := rfl
@[simp] theorem stopGeneration_draws (s : State) : (stopGeneration s).draws = s.draws := rfl
@[simp] theorem stopGeneration_result (s : State) : (stopGeneration s).result = s.result := rfl
@[simp] theorem stopGeneration_log (s : State) : (stopGeneration s).log = s.log := rfl

@[simp] theorem consistencyViolation_bank (s : State) :
    (consistencyViolation s).bank = s.bank := rfl
@[simp] theorem consistencyViolation_status (s : State) :
    (consistencyViolation s).status = s.status := rfl
@[simp] theorem consistencyViolation_stopRequested (s : State) :
    (consistencyViolation s).stopRequested = s.stopRequested := rfl
@[simp] theorem consistencyViolation_fs (s : State) : (consistencyViolation s).fs = s.fs := rfl
@[simp] theorem consistencyViolation_fe (s : State) : (consistencyViolation s).fe = s.fe := rfl
@[simp] theorem consistencyViolation_cache (s : State) :
    (consistencyViolation s).cache = s.cache := rfl
@[simp] theorem consistencyViolation_cacheLen (s : State) :
    (consistencyViolation s).cacheLen = s.cacheLen := rfl
@[simp] theorem consistencyViolation_chan (s : State) :
    (consistencyViolation s).chan = s.chan := rfl
@[simp] theorem consistencyViolation_irqLine (s : State) :
    (consistencyViolation s).irqLine = s.irqLine := rfl
@[simp] theorem consistencyViolation_irqTrace (s : State) :
    (consistencyViolation s).irqTrace = s.irqTrace := rfl
@[simp] theorem consistencyViolation_halted (s : State) :
    (consistencyViolation s).halted = true := rfl
@[simp] theorem consistencyViolation_now (s : State) : (consistencyViolation s).now = s.now := rfl
@[simp] theorem consistencyViolation_inbox (s : State) :
    (consistencyViolation s).inbox = s.inbox := rfl
@[simp] theorem consistencyViolation_memAnswers (s : State) :
    (consistencyViolation s).memAnswers = s.memAnswers := rfl
@[simp] theorem consistencyViolation_params (s : State) :
    (consistencyViolation s).params = s.params := rfl
@[simp] theorem consistencyViolation_draws (s : State) :
    (consistencyViolation s).draws = s.draws := rfl
@[simp] theorem consistencyViolation_result (s : State) :
    (consistencyViolation s).result = s.result := rfl
@[simp] theorem consistencyViolation_log (s : State) : (consistencyViolation s).log = s.log := rfl

@[simp] theorem checkDmaIdle_bank (s : State) : (checkDmaIdle s).bank = s.bank := rfl
@[simp] theorem checkDmaIdle_status (s : State) : (checkDmaIdle s).status = s.status := rfl
@[simp] theorem checkDmaIdle_stopRequested (s : State) :
    (checkDmaIdle s).stopRequested = s.stopRequested := rfl
@[simp] theorem checkDmaIdle_fs (s : State) : (checkDmaIdle s).fs = s.fs := rfl
@[simp] theorem checkDmaIdle_fe (s : State) : (checkDmaIdle s).fe = s.fe := rfl
@[simp] theorem checkDmaIdle_cache (s : State) : (checkDmaIdle s).cache = s.cache := rfl
@[simp] theorem checkDmaIdle_cacheLen (s : State) : (checkDmaIdle s).cacheLen = s.cacheLen := rfl
@[simp] theorem checkDmaIdle_chan (s : State) : (checkDmaIdle s).chan = s.chan := rfl
@[simp] theorem checkDmaIdle_irqLine (s : State) : (checkDmaIdle s).irqLine = s.irqLine := rfl
@[simp] theorem checkDmaIdle_irqTrace (s : State) : (checkDmaIdle s).irqTrace = s.irqTrace := rfl
@[simp] theorem checkDmaIdle_halted (s : State) : (checkDmaIdle s).halted = s.halted := rfl
@[simp] theorem checkDmaIdle_now (s : State) : (checkDmaIdle s).now = s.now := rfl
@[simp] theorem checkDmaIdle_inbox (s : State) : (checkDmaIdle s).inbox = s.inbox := rfl
@[simp] theorem checkDmaIdle_memAnswers (s : State) :
    (checkDmaIdle s).memAnswers = s.memAnswers := rfl
@[simp] theorem checkDmaIdle_params (s : State) : (checkDmaIdle s).params = s.params := rfl
@[simp] theorem checkDmaIdle_draws (s : State) : (checkDmaIdle s).draws = s.draws := rfl
@[simp] theorem checkDmaIdle_result (s : State) : (checkDmaIdle s).result = s.result := rfl

@[simp] theorem present_bank (s : State) (w : OpWord) : (present w s).bank = s.bank := rfl
@[simp] theorem present_status (s : State) (w : OpWord) : (present w s).status = s.status := rfl
@[simp] theorem present_stopRequested (s : State) (w : OpWord) :
    (present w s).stopRequested = s.stopRequested := rfl
@[simp] theorem present_fs (s : State) (w : OpWord) : (present w s).fs = s.fs := rfl
@[simp] theorem present_fe (s : State) (w : OpWord) : (present w s).fe = s.fe := rfl
@[simp] theorem present_cache (s : State) (w : OpWord) : (present w s).cache = s.cache := rfl
@[simp] theorem present_cacheLen (s : State) (w : OpWord) :
    (present w s).cacheLen = s.cacheLen := rfl
@[simp] theorem present_chan (s : State) (w : OpWord) : (present w s).chan = s.chan := rfl
@[simp] theorem present_irqLine (s : State) (w : OpWord) : (present w s).irqLine = s.irqLine := rfl
@[simp] theorem present_irqTrace (s : State) (w : OpWord) :
    (present w s).irqTrace = s.irqTrace := rfl
@[simp] theorem present_halted (s : State) (w : OpWord) : (present w s).halted = s.halted := rfl
@[simp] theorem present_now (s : State) (w : OpWord) : (present w s).now = s.now := rfl
@[simp] theorem present_inbox (s : State) (w : OpWord) :
    (present w s).inbox = { time := s.now, word := w } :: s.inbox := rfl
@[simp] theorem present_memAnswers (s : State) (w : OpWord) :
    (present w s).memAnswers = s.memAnswers := rfl
@[simp] theorem present_params (s : State) (w : OpWord) : (present w s).params = s.params := rfl
@[simp] theorem present_draws (s : State) (w : OpWord) : (present w s).draws = s.draws := rfl
@[simp] theorem present_result (s : State) (w : OpWord) : (present w s).result = s.result := rfl
@[simp] theorem present_log (s : State) (w : OpWord) : (present w s).log = s.log := rfl

/-! ### Views of the state -/

@[simp] theorem timer_fs (s : State) : s.timer .fs = s.fs := rfl

@[simp] theorem timer_fe (s : State) : s.timer .fe = s.fe := rfl

/-- A bank word depends on the bank alone. -/
theorem word_congr (s t : State) (h : s.bank = t.bank) (off : Word) : s.word off = t.word off := by
  simp only [State.word, h]

/-- A named register depends on the bank alone. -/
theorem reg_congr (s t : State) (h : s.bank = t.bank) (x : RegName) : s.reg x = t.reg x :=
  word_congr s t h _

/-- A byte of a target space depends on the channel table alone. -/
theorem memRead_congr (s t : State) (h : s.chan = t.chan) (c a : Nat) :
    s.memRead c a = t.memRead c a := by
  simp only [State.memRead, h]

end Sys2Proof.Machine
end

