-- ==== Sys2Proof/Laws/Window.lean ====
section
/-! SUPPORT. The register window: the admission test as arithmetic, and reading the bank after writing
it. -/

namespace Sys2Proof.Machine

/-- The mask of R36 tests bits 31:10 and bits 1:0. -/
theorem land_admissionMask (n : Nat) (h : n < 2 ^ 32) :
    n &&& 0xFFFFFC03 = 0 ↔ n < 0x400 ∧ n % 4 = 0 := by
  have split : n &&& 0xFFFFFC03 = 2 ^ 10 * (n / 2 ^ 10 &&& 0x3FFFFF) + (n % 2 ^ 10 &&& 3) := by
    apply Nat.eq_of_testBit_eq
    intro i
    rw [Nat.testBit_two_pow_mul_add _ (lt_of_le_of_lt Nat.and_le_right (by decide))]
    have mask : (0xFFFFFC03 : Nat) = 2 ^ 10 * 0x3FFFFF + 3 := by decide
    rw [Nat.testBit_and, mask, Nat.testBit_two_pow_mul_add _ (by decide)]
    split_ifs with low
    · rw [Nat.testBit_and, Nat.testBit_mod_two_pow, decide_eq_true low, Bool.true_and]
    · rw [Nat.testBit_and, Nat.testBit_div_two_pow, show i - 10 + 10 = i by omega]
  have high : n / 2 ^ 10 &&& 0x3FFFFF = n / 2 ^ 10 := by
    have := Nat.and_two_pow_sub_one_eq_mod (n / 2 ^ 10) 22
    norm_num at this ⊢
    omega
  have low : n % 2 ^ 10 &&& 3 = n % 4 := by
    have := Nat.and_two_pow_sub_one_eq_mod (n % 2 ^ 10) 2
    norm_num at this ⊢
    omega
  rw [split, high, low]
  omega

/-- R34 and R36: an offset is admitted when it is inside the window and aligned. -/
theorem validOffset_iff (off : Word) :
    validOffset off = true ↔ off.toNat < ioWindowSize ∧ off.toNat % accessSize = 0 := by
  rw [validOffset, beq_iff_eq, ← BitVec.toNat_inj, BitVec.toNat_and]
  exact land_admissionMask off.toNat off.isLt

/-- An admitted offset names one of the 256 words. -/
theorem bankIndex_lt {off : Word} (h : validOffset off = true) : bankIndex off < 256 := by
  have := (validOffset_iff off).1 h
  simp only [bankIndex, ioWindowSize, accessSize] at *
  omega

/-- Two admitted offsets name different words. -/
theorem bankIndex_inj {off off' : Word} (h : validOffset off = true) (h' : validOffset off' = true)
    (eq : bankIndex off = bankIndex off') : off = off' := by
  have v := (validOffset_iff off).1 h
  have v' := (validOffset_iff off').1 h'
  simp only [bankIndex, ioWindowSize, accessSize] at *
  apply BitVec.eq_of_toNat_eq
  omega

/-- Every named register is inside the window. -/
@[simp] theorem validOffset_regOffset (x : RegName) : validOffset (regOffset x) = true := by
  cases x <;> decide

/-- The register at a named register's offset is that register. -/
@[simp] theorem regAt_regOffset (x : RegName) : regAt (regOffset x) = some x := by
  cases x <;> decide

/-- Distinct named registers have distinct offsets. -/
theorem regOffset_inj {x y : RegName} (h : regOffset x = regOffset y) : x = y := by
  have := congrArg regAt h
  rwa [regAt_regOffset, regAt_regOffset, Option.some.injEq] at this

/-- What `regAt` answers. -/
theorem regAt_eq_some {off : Word} {x : RegName} : regAt off = some x ↔ off = regOffset x := by
  constructor
  · intro h
    have found := List.find?_some (p := fun r => regOffset r == off) h
    exact (beq_iff_eq.1 found).symm
  · rintro rfl
    exact regAt_regOffset x

/-- An unnamed offset is no named register's. -/
theorem regAt_eq_none {off : Word} : regAt off = none ↔ ∀ x, off ≠ regOffset x := by
  constructor
  · rintro h x rfl
    simp at h
  · intro h
    cases hr : regAt off with
    | none => rfl
    | some x => exact absurd (regAt_eq_some.1 hr) (h x)

/-- Reading the word just written. -/
@[simp] theorem word_setWord_same (s : State) {off : Word} (v : Word) (h : validOffset off = true) :
    (s.setWord off v).word off = v := by
  simp [State.word, bankIndex_lt h]

/-- A write leaves every other admitted word alone. -/
theorem word_setWord_other (s : State) {off off' : Word} (v : Word) (h : validOffset off = true)
    (h' : validOffset off' = true) (ne : off' ≠ off) : (s.setWord off v).word off' = s.word off' := by
  have : bankIndex off ≠ bankIndex off' := fun eq => ne (bankIndex_inj h h' eq).symm
  simp [State.word, this]

/-- Reading the register just written. -/
@[simp] theorem reg_setReg_same (s : State) (x : RegName) (v : Word) : (s.setReg x v).reg x = v :=
  word_setWord_same s v (validOffset_regOffset x)

/-- A write leaves every other named register alone. -/
theorem reg_setReg_other (s : State) {x y : RegName} (v : Word) (ne : y ≠ x) :
    (s.setReg x v).reg y = s.reg y :=
  word_setWord_other s v (validOffset_regOffset x) (validOffset_regOffset y)
    fun h => ne (regOffset_inj h)

end Sys2Proof.Machine
end

