-- ==== Sys2Proof/Laws/Decode.lean ====
section
/-! SUPPORT. The fields of operation words, and the masked comparison of a selector with a row. -/

namespace Sys2Proof

open Sys2Proof.Machine

/-- The kind of a packed word. -/
@[simp] theorem opKind_packWord (k : BitVec 2) (o d : Word) : opKind (packWord k o d) = k := by
  show (k ++ o ++ d).extractLsb' 64 2 = k
  apply BitVec.eq_of_getLsbD_eq
  intro i hi
  rw [BitVec.getLsbD_extractLsb', BitVec.getLsbD_append, BitVec.getLsbD_append]
  simp [hi, show ¬ 64 + i < 32 by omega, show ¬ 64 + i - 32 < 32 by omega, show 64 + i - 32 - 32 = i by omega]

/-- The offset of a packed word. -/
@[simp] theorem opOffset_packWord (k : BitVec 2) (o d : Word) : opOffset (packWord k o d) = o := by
  show (k ++ o ++ d).extractLsb' 32 32 = o
  apply BitVec.eq_of_getLsbD_eq
  intro i hi
  rw [BitVec.getLsbD_extractLsb', BitVec.getLsbD_append, BitVec.getLsbD_append]
  simp [hi]

/-- The data of a packed word. -/
@[simp] theorem opData_packWord (k : BitVec 2) (o d : Word) : opData (packWord k o d) = d := by
  show (k ++ o ++ d).extractLsb' 0 32 = d
  apply BitVec.eq_of_getLsbD_eq
  intro i hi
  rw [BitVec.getLsbD_extractLsb', BitVec.getLsbD_append, BitVec.getLsbD_append]
  simp [hi]

/-- A word is its three fields. -/
theorem packWord_fields (w : OpWord) : packWord (opKind w) (opOffset w) (opData w) = w := by
  show (w.extractLsb' 64 2 ++ w.extractLsb' 32 32 ++ w.extractLsb' 0 32 : BitVec (2+32+32)) = w
  apply BitVec.eq_of_getLsbD_eq
  intro i hi
  rw [BitVec.getLsbD_append, BitVec.getLsbD_append]
  simp only [BitVec.getLsbD_extractLsb', Nat.zero_add]
  split_ifs with h1 h2
  · simp [h1]
  · simp [h2, show 32 + (i - 32) = i by omega]
  · simp [show i - 32 - 32 < 2 by omega, show 64 + (i - 32 - 32) = i by omega]

/-- The selector is `kind ++ offset` (R53). -/
theorem opSelector_eq (w : OpWord) : opSelector w = opKind w ++ opOffset w := by
  show w.extractLsb' 32 34 = (w.extractLsb' 64 2 ++ w.extractLsb' 32 32 : BitVec (2+32))
  apply BitVec.eq_of_getLsbD_eq
  intro i hi
  rw [BitVec.getLsbD_append]
  simp only [BitVec.getLsbD_extractLsb']
  split_ifs with h1
  · simp [h1, hi]
  · simp [hi, show i - 32 < 2 by omega, show 64 + (i - 32) = 32 + i by omega]

/-- The selector of a packed word. -/
@[simp] theorem opSelector_packWord (k : BitVec 2) (o d : Word) :
    opSelector (packWord k o d) = k ++ o := by
  rw [opSelector_eq, opKind_packWord, opOffset_packWord]

/-- A masked selector equals a pattern when its kind and its offset do. -/
theorem selector_match (k : BitVec 2) (o : Word) (mask pattern : BitVec 34) :
    (k ++ o : BitVec (2 + 32)) &&& mask = pattern ↔
      k &&& mask.extractLsb' 32 2 = pattern.extractLsb' 32 2 ∧
        o &&& mask.extractLsb' 0 32 = pattern.extractLsb' 0 32 := by
  constructor
  · rintro rfl
    constructor <;> apply BitVec.eq_of_getLsbD_eq <;> intro i hi
    · simp only [BitVec.getLsbD_and, BitVec.getLsbD_extractLsb', BitVec.getLsbD_append]
      simp [hi]
    · simp only [BitVec.getLsbD_and, BitVec.getLsbD_extractLsb', BitVec.getLsbD_append]
      simp [hi]
  · rintro ⟨hk, ho⟩
    apply BitVec.eq_of_getLsbD_eq
    intro i hi
    rw [BitVec.getLsbD_and, BitVec.getLsbD_append]
    by_cases low : i < 32
    · have := congrArg (fun v : Word => v.getLsbD i) ho
      simpa [low] using this
    · have := congrArg (fun v : BitVec 2 => v.getLsbD (i - 32)) hk
      simpa [low, show i - 32 < 2 by omega, show 32 + (i - 32) = i by omega] using this

/-- When a word selects a row. -/
theorem selects_iff (r : Row) (w : OpWord) :
    r.selects w = true ↔
      (opKind w &&& r.mask.extractLsb' 32 2 = r.pattern.extractLsb' 32 2 ∧
        opOffset w &&& r.mask.extractLsb' 0 32 = r.pattern.extractLsb' 0 32) ∧
      r.cond.holds (opData w) = true := by
  rw [Row.selects, Bool.and_eq_true, beq_iff_eq, opSelector_eq]
  exact and_congr_left fun _ => selector_match _ _ _ _

end Sys2Proof
end

