-- ==== Sys2Proof/Laws/Memory.lean ====
section
/-! SUPPORT. The DMA target space: every write keeps the canonical form, a read after a write gives what
was written, and a write leaves every other address alone. -/

namespace Sys2Proof.Machine

/-- The addresses a write can add. -/
theorem write_mem (m : Memory) (a : Nat) (b : Byte) {c : Host.Cell} (h : c ∈ m.write a b) :
    c = (a, b) ∨ c ∈ m := by
  induction m with
  | nil => simpa [Memory.write] using h
  | cons head rest ih =>
    obtain ⟨k, v⟩ := head
    simp only [Memory.write] at h
    split_ifs at h <;> simp only [List.mem_cons] at h ⊢ <;> tauto

/-- A write keeps the canonical form. -/
theorem write_wf {m : Memory} {a : Nat} (b : Byte) (h : m.wf) (ha : a < dmaSpaceSize) :
    (m.write a b).wf := by
  induction m with
  | nil => exact ⟨List.pairwise_singleton _ _, by simpa [Memory.write] using ha⟩
  | cons head rest ih =>
    obtain ⟨k, v⟩ := head
    obtain ⟨ordered, bounded⟩ := h
    rw [List.pairwise_cons] at ordered
    obtain ⟨first, ordered⟩ := ordered
    simp only [List.mem_cons, forall_eq_or_imp] at bounded
    obtain ⟨hk, bounded⟩ := bounded
    simp only [Memory.write]
    split_ifs with lt eq
    · refine ⟨?_, ?_⟩
      · simp only [List.pairwise_cons, List.mem_cons, forall_eq_or_imp]
        exact ⟨⟨lt, fun c hc => lt.trans (first c hc)⟩, first, ordered⟩
      · simp only [List.mem_cons, forall_eq_or_imp]
        exact ⟨ha, hk, bounded⟩
    · subst eq
      refine ⟨?_, ?_⟩
      · rw [List.pairwise_cons]
        exact ⟨first, ordered⟩
      · simp only [List.mem_cons, forall_eq_or_imp]
        exact ⟨ha, bounded⟩
    · obtain ⟨ordered', bounded'⟩ := ih ⟨ordered, bounded⟩
      refine ⟨?_, ?_⟩
      · rw [List.pairwise_cons]
        refine ⟨fun c hc => ?_, ordered'⟩
        rcases write_mem rest a b hc with rfl | hc
        · show k < a
          omega
        · exact first c hc
      · simp only [List.mem_cons, forall_eq_or_imp]
        exact ⟨hk, bounded'⟩

/-- A byte string that ends inside the space keeps the canonical form. -/
theorem writeBytes_wf {m : Memory} {a : Nat} (bs : List Byte) (h : m.wf)
    (ha : a + bs.length ≤ dmaSpaceSize) : (m.writeBytes a bs).wf := by
  induction bs generalizing m a with
  | nil => exact h
  | cons b bs ih =>
    simp only [List.length_cons] at ha
    exact ih (write_wf b h (by omega)) (by omega)

/-- Reading the byte just written. -/
@[simp] theorem read_write_same (m : Memory) (a : Nat) (b : Byte) : (m.write a b).read a = some b := by
  induction m with
  | nil => simp [Memory.write, Memory.read]
  | cons head rest ih =>
    obtain ⟨k, v⟩ := head
    simp only [Memory.write]
    split_ifs with lt eq
    · simp [Memory.read]
    · simp [Memory.read]
    · simp [Memory.read, eq, ih]

/-- A write leaves every other address alone. -/
theorem read_write_other (m : Memory) {a a' : Nat} (b : Byte) (ne : a' ≠ a) :
    (m.write a b).read a' = m.read a' := by
  induction m with
  | nil => simp [Memory.write, Memory.read, ne]
  | cons head rest ih =>
    obtain ⟨k, v⟩ := head
    simp only [Memory.write]
    split_ifs with lt eq
    · simp [Memory.read, ne]
    · subst eq
      simp [Memory.read, ne]
    · simp only [Memory.read, ih]

/-- A byte string leaves every address outside its range alone. -/
theorem read_writeBytes_outside (m : Memory) {a a' : Nat} (bs : List Byte)
    (out : a' < a ∨ a + bs.length ≤ a') : (m.writeBytes a bs).read a' = m.read a' := by
  induction bs generalizing m a with
  | nil => rfl
  | cons b bs ih =>
    simp only [List.length_cons] at out
    rw [Memory.writeBytes, ih (m.write a b) (by omega)]
    exact read_write_other m b (by omega)

/-- Reading inside a byte string just written: byte `i` is at `a + i` (R42). -/
theorem read_writeBytes_inside (m : Memory) (a : Nat) (bs : List Byte) (i : Nat)
    (hi : i < bs.length) : (m.writeBytes a bs).read (a + i) = some (bs[i]) := by
  induction bs generalizing m a i with
  | nil => simp at hi
  | cons b bs ih =>
    rw [Memory.writeBytes]
    cases i with
    | zero =>
      rw [read_writeBytes_outside (m.write a b) bs (by omega)]
      simp
    | succ i =>
      have := ih (m.write a b) (a + 1) i (by simpa using hi)
      rw [show a + 1 + i = a + (i + 1) by omega] at this
      simpa using this

end Sys2Proof.Machine
end

