-- ==== Sys2Proof/Laws/Ops.lean ====
section
/-! SUPPORT. What each shared operation can do, said once. -/

namespace Sys2Proof.Machine

/-! ### Outcomes -/

/-- A running operation answers its state. -/
theorem whileRunning_next {op : State → State} {s t : State} :
    whileRunning op s = .next t ↔ s.halted = false ∧ t = op s := by
  unfold whileRunning
  cases h : s.halted <;> simp [eq_comm]

theorem answering_next {op : State → Result × State} {s t : State} :
    answering op s = .next t ↔ s.halted = false ∧ t = (op s).2.withResult (some (op s).1) :=
  whileRunning_next

theorem answerless_next {op : State → State} {s t : State} :
    answerless op s = .next t ↔ s.halted = false ∧ t = (op s).withResult none :=
  whileRunning_next

theorem answering_running {op : State → Result × State} {s : State} (h : s.halted = false) :
    answering op s = .next ((op s).2.withResult (some (op s).1)) :=
  answering_next.2 ⟨h, rfl⟩

theorem answerless_running {op : State → State} {s : State} (h : s.halted = false) :
    answerless op s = .next ((op s).withResult none) :=
  answerless_next.2 ⟨h, rfl⟩

/-- R108: a timer event happens exactly when the block runs, the timer is pending and it is due. -/
theorem timerEvent_next {x : TimerId} {fire : State → State} {s t : State} :
    timerEvent x fire s = .next t ↔
      s.halted = false ∧ (s.timer x).pending = true ∧ (s.timer x).deadline ≤ s.now ∧
        t = (fire (clearPending x s)).withResult none := by
  unfold timerEvent
  by_cases hh : s.halted = true
  · simp [hh]
  · by_cases hp : (s.timer x).pending = true
    · by_cases hd : s.now < (s.timer x).deadline
      · simp [hh, hp, hd]
      · simp only [Bool.not_eq_true] at hh
        simp [hh, hp, hd, answerless_running hh, eq_comm, Nat.not_lt.1 hd]
    · simp [hh, hp]

/-! ### Timers -/

/-- `create_timers()` makes both handles, or fails and leaves the state (R110). -/
theorem createTimers_eq (s : State) :
    (TimersReady s ∧ createTimers s = (.ok, withTimers s)) ∨
      (¬ TimersReady s ∧ createTimers s = (.error .resourceExhausted, s)) := by
  rcases s with ⟨bank, status, stop, ⟨c1, p1, d1⟩, ⟨c2, p2, d2⟩, cache, len, chan, line, trace, halted,
    now, inbox, answers, params, draws, result, log⟩
  cases c1 <;> cases c2 <;> cases ok : params.timerCreateOk <;>
    simp [TimersReady, createTimers, createTimer, withTimers, State.timer, State.setTimer, raise, ok]

/-! ### Interrupt status word and line -/

/-- `raise_flag(m)` stores the OR-ed word and delivers it (R112). -/
theorem raiseFlag_eq (m : Word) (s : State) :
    raiseFlag m s =
      { s with
        bank := s.bank.setIfInBounds 12 (s.word 0x30#32 ||| m)
        irqLine := s.word 0x30#32 ||| m
        irqTrace := s.irqTrace ++ [s.word 0x30#32 ||| m] } := by
  simp only [raiseFlag, reg_setReg_same]
  rfl

/-! ### The pattern cache -/

/-- The allocation is admitted when the size is within the bound and not refused (R102). -/
theorem allocAdmitted_iff (p : Config.Params) (n : Nat) :
    allocAdmitted p n = true ↔
      (∀ bound, p.maxCacheBytes = some bound → n ≤ bound) ∧ n ∉ p.allocRefused := by
  unfold allocAdmitted
  cases p.maxCacheBytes <;> simp

/-- The size of a frame of the one supported format (R58, R59). -/
theorem frameSize_one (w h : Word) : frameSize w h 1 = w.toNat * h.toNat := Nat.mul_one _

/-- `alloc_cache()` fills the cache, or fails and leaves the state (R102). -/
theorem allocCache_eq (s : State) :
    (s.cache.isSome = true ∧ allocCache s = (.error .invalidState, s)) ∨
    (s.cache = none ∧ s.reg .outFormat ≠ 0#32 ∧ allocCache s = (.error .invalidConfig, s)) ∨
    (s.cache = none ∧ s.reg .outFormat = 0#32 ∧
      allocAdmitted s.params ((s.reg .outWidth).toNat * (s.reg .outHeight).toNat) = false ∧
      allocCache s = (.error .resourceExhausted, s)) ∨
    (s.cache = none ∧ s.reg .outFormat = 0#32 ∧
      allocAdmitted s.params ((s.reg .outWidth).toNat * (s.reg .outHeight).toNat) = true ∧
      allocCache s = (.ok,
        { s with
          cache := some (List.replicate ((s.reg .outWidth).toNat * (s.reg .outHeight).toNat) sentinel)
          cacheLen := (s.reg .outWidth).toNat * (s.reg .outHeight).toNat })) := by
  cases hc : s.cache with
  | some bytes => simp [allocCache, hc, raise]
  | none =>
    by_cases hf : s.reg .outFormat = 0#32
    · cases ha : allocAdmitted s.params ((s.reg .outWidth).toNat * (s.reg .outHeight).toNat) <;>
        simp [allocCache, hc, hf, ha, bytesPerPixel, frameSize_one, raise]
    · simp [allocCache, hc, hf, bytesPerPixel, raise]

/-! ### DMA channels -/

/-- `validate_dma_config` answers `ok` or InvalidConfig, and `ok` exactly as R95 says. -/
theorem validateDmaConfig_eq (channel planeCount : Nat) (s : State) :
    validateDmaConfig channel planeCount s =
      if channel < s.chan.length ∧ planeCount ≤ maxPlanes ∧
          ∀ p, p < planeCount → planeAddr channel p s ≠ 0#64 ∧ planeLen channel p s ≠ 0
      then .ok else .error .invalidConfig := by
  unfold validateDmaConfig
  by_cases h1 : s.chan.length ≤ channel
  · simp [h1, Nat.not_lt.2 h1]
  · by_cases h2 : maxPlanes < planeCount
    · simp [h1, h2, Nat.not_le.2 h2]
    · have all_iff : (List.range planeCount).all (planeConfigured channel · s) = true ↔
          ∀ p, p < planeCount → planeAddr channel p s ≠ 0#64 ∧ planeLen channel p s ≠ 0 := by
        simp [planeConfigured]
      simp only [h1, h2, if_false, all_iff, Nat.not_le.1 h1, Nat.not_lt.1 h2, true_and]

/-- The address of plane 0 of the primary channel is not 0 when one of its words is not (R56). -/
theorem planeAddress_ne_zero (hi lo : Word) : planeAddress hi lo ≠ 0#64 ↔ hi ≠ 0#32 ∨ lo ≠ 0#32 := by
  have key : (planeAddress hi lo).toNat = hi.toNat * 2 ^ 32 + lo.toNat := by
    have h1 := hi.isLt
    have h2 := lo.isLt
    simp only [planeAddress, BitVec.toNat_add, BitVec.toNat_shiftLeft, BitVec.toNat_setWidth,
      Nat.shiftLeft_eq]
    omega
  rw [← not_iff_not, not_or, not_not, not_not, not_not, ← BitVec.toNat_inj, ← BitVec.toNat_inj,
    ← BitVec.toNat_inj, key]
  simp only [BitVec.toNat_ofNat, Nat.zero_mod]
  omega

/-- The environment's answer depends on its inputs alone. -/
theorem memAnswer_congr {s t : State} (h : s.memAnswers = t.memAnswers) (h' : s.draws = t.draws) :
    memAnswer s = memAnswer t := by
  simp only [memAnswer, h, h']

/-- The bytes taken from a buffer are as many as asked for. -/
@[simp] theorem bufferBytes_length (buffer : List Byte) (n k : Nat) :
    (bufferBytes buffer n k).length = n := by
  simp [bufferBytes]
  omega

/-- A buffer of the length asked for is taken whole. -/
@[simp] theorem bufferBytes_self (buffer : List Byte) (k : Nat) :
    bufferBytes buffer buffer.length k = buffer := by
  simp [bufferBytes]

/-- What `MemWrite` leaves in the range: the bytes, or the free bytes of a failed write. -/
def leftBehind (bytes : List Byte) (s : State) : List Byte :=
  if memAnswer s then bytes else bufferBytes [] bytes.length s.draws

@[simp] theorem leftBehind_length (bytes : List Byte) (s : State) :
    (leftBehind bytes s).length = bytes.length := by
  unfold leftBehind
  split <;> simp

/-- `MemWrite` is refused with nothing changed, or writes its range and nothing else (R99). -/
theorem memWrite_eq (c : Nat) (addr : Addr) (bytes : List Byte) (s : State) :
    (dmaSpaceSize < addr.toNat + bytes.length ∧ memWrite c addr bytes s = (false, s)) ∨
    (addr.toNat + bytes.length ≤ dmaSpaceSize ∧ memWrite c addr bytes s = (memAnswer s,
      { s with
        chan := s.chan.modify c fun ch =>
          { ch with space := ch.space.writeBytes addr.toNat (leftBehind bytes s) }
        memAnswers := s.memAnswers.tail
        draws := s.draws + bytes.length + 1 })) := by
  unfold memWrite leftBehind
  by_cases h : dmaSpaceSize < addr.toNat + bytes.length
  · exact .inl ⟨h, by simp [h]⟩
  · exact .inr ⟨Nat.not_lt.1 h, by simp [h]⟩

/-- Reading a space of a channel table one of whose entries was changed. -/
theorem memRead_modify (chan : List Channel) (c c' a : Nat) (f : Channel → Channel) :
    ((chan.modify c f)[c']?).bind (fun ch => ch.space.read a) =
      (chan[c']?).bind fun ch => (if c = c' then (f ch).space else ch.space).read a := by
  rw [List.getElem?_modify]
  cases chan[c']? <;> split <;> simp [*]

/-! ### The sequencer -/

/-- The state after a successful enable, before the framework stores the word (R101). -/
def started (s : State) : State :=
  { s with
    status := .blanking
    stopRequested := false
    cache := some (List.replicate ((s.reg .outWidth).toNat * (s.reg .outHeight).toNat) sentinel)
    cacheLen := (s.reg .outWidth).toNat * (s.reg .outHeight).toNat
    fs := { created := true, pending := true,
            deadline := deadlineAfter s.now (s.reg .vblankDuration) }
    fe := { s.fe with created := true } }

/-- `enable()` starts generation, or fails leaving everything but the `created` bits (R101). -/
theorem enable_eq (s : State) :
    (s.status = .idle ∧ validateDmaConfig primaryChannel 1 s = .ok ∧ TimersReady s ∧
      s.cache = none ∧ s.reg .outFormat = 0#32 ∧
      allocAdmitted s.params ((s.reg .outWidth).toNat * (s.reg .outHeight).toNat) = true ∧
      enable s = (.ok, started s)) ∨
    ∃ k, (k = .invalidState ∨ k = .invalidConfig ∨ k = .resourceExhausted) ∧
      (enable s = (.error k, s) ∨
        (s.status = .idle ∧ enable s = (.error k, withTimers s))) := by
  unfold enable
  by_cases h1 : s.status = .idle
  · rcases hv : decide (validateDmaConfig primaryChannel 1 s = .ok) with _ | _
    · rw [decide_eq_false_iff_not] at hv
      exact .inr ⟨.invalidConfig, by simp, .inl (by simp [h1, hv, raise])⟩
    · rw [decide_eq_true_eq] at hv
      simp only [h1, hv, ne_eq, not_true_eq_false, if_false, startGeneration]
      rcases createTimers_eq s with ⟨ready, ct⟩ | ⟨_, ct⟩
      · rw [ct]
        rcases allocCache_eq (withTimers s) with ⟨_, ac⟩ | ⟨_, _, ac⟩ | ⟨_, _, _, ac⟩ |
            ⟨nc, fmt, adm, ac⟩
        · exact .inr ⟨.invalidState, by simp, .inr ⟨trivial, by simp [ac]⟩⟩
        · exact .inr ⟨.invalidConfig, by simp, .inr ⟨trivial, by simp [ac]⟩⟩
        · exact .inr ⟨.resourceExhausted, by simp, .inr ⟨trivial, by simp [ac]⟩⟩
        · refine .inl ⟨trivial, trivial, ready, nc, fmt, adm, ?_⟩
          simp only [ac]
          rfl
      · exact .inr ⟨.resourceExhausted, by simp, .inl (by simp [ct])⟩
  · exact .inr ⟨.invalidState, by simp, .inl (by simp [h1, raise])⟩

/-- What `register_write` can do (R64, R67). -/
theorem registerWrite_cases (off v : Word) (s : State) :
    (validOffset off = false ∧ registerWrite off v s = (.error .invalidAddress, s)) ∨
    (validOffset off = true ∧
      ((off = regOffset .enable ∧ v ≠ 0#32 ∧
          ((∃ k s1, enable s = (.error k, s1) ∧ registerWrite off v s = (.error k, s1)) ∨
            (enable s = (.ok, started s) ∧
              registerWrite off v s = (.ok, (started s).setWord off v)))) ∨
        (off = regOffset .enable ∧ v = 0#32 ∧
          registerWrite off v s = (.ok, (disable s).2.setWord off v)) ∨
        (off = regOffset .irqReg ∧
          registerWrite off v s = (.ok, (irqHostWrite v s).2.setWord off v)) ∨
        (off ≠ regOffset .enable ∧ off ≠ regOffset .irqReg ∧
          registerWrite off v s = (.ok, s.setWord off v)))) := by
  cases hv : validOffset off with
  | false => exact .inl ⟨rfl, by simp [registerWrite, hv, raise]⟩
  | true =>
    refine .inr ⟨rfl, ?_⟩
    by_cases he : off = regOffset .enable
    · by_cases hz : v = 0#32
      · refine .inr (.inl ⟨he, hz, ?_⟩)
        obtain ⟨s1, h⟩ : ∃ s1, disable s = (.ok, s1) := by
          unfold disable
          split <;> exact ⟨_, rfl⟩
        simp [registerWrite, handlerWrite, he, hz, h]
      · refine .inl ⟨he, hz, ?_⟩
        rcases enable_eq s with ⟨_, _, _, _, _, _, h⟩ | ⟨k, _, h | ⟨_, h⟩⟩
        · exact .inr ⟨h, by simp [registerWrite, handlerWrite, he, hz, h]⟩
        · exact .inl ⟨k, s, h, by simp [registerWrite, handlerWrite, he, hz, h]⟩
        · exact .inl ⟨k, withTimers s, h, by simp [registerWrite, handlerWrite, he, hz, h]⟩
    · by_cases hi : off = regOffset .irqReg
      · refine .inr (.inr (.inl ⟨hi, ?_⟩))
        have ne : regOffset .irqReg ≠ regOffset .enable := by decide
        simp [registerWrite, handlerWrite, hi, ne, irqHostWrite]
      · exact .inr (.inr (.inr ⟨he, hi, by simp [registerWrite, hv, handlerWrite, he, hi]⟩))

end Sys2Proof.Machine
end

