-- ==== Sys2Proof/Laws/Dma.lean ====
section
/-! SUPPORT. What `dma_write` and the two timer events can do, said once. -/

namespace Sys2Proof.Machine

/-- The state in which `dma_write` asks the environment: the free bytes beyond the buffer are drawn. -/
def padded (buffer : List Byte) (length : Nat) (s : State) : State :=
  { s with draws := s.draws + (length - buffer.length) }

/-- What `dma_write` leaves in its range. -/
def dmaBytes (buffer : List Byte) (length : Nat) (s : State) : List Byte :=
  leftBehind (bufferBytes buffer length s.draws) (padded buffer length s)

@[simp] theorem dmaBytes_length (buffer : List Byte) (length : Nat) (s : State) :
    (dmaBytes buffer length s).length = length := by
  simp [dmaBytes]

/-- A whole buffer is left behind when the environment answers `ok`. -/
theorem dmaBytes_ok (buffer : List Byte) (s : State) (h : memAnswer s = true) :
    dmaBytes buffer buffer.length s = buffer := by
  have : memAnswer (padded buffer buffer.length s) = true := by
    rw [← h]
    exact memAnswer_congr rfl (by simp [padded])
  simp [dmaBytes, leftBehind, this]

/-- The state after a `dma_write` whose range passes the end of the space. -/
def dmaRefused (channel : Nat) (buffer : List Byte) (length : Nat) (s : State) : State :=
  { s with
    chan := s.chan.modify channel fun ch => { ch with status := .idle }
    draws := s.draws + (length - buffer.length)
    log := s.log ++ [.dmaCopyFailed] }

/-- The state after a `dma_write` that the environment answered. -/
def dmaWritten (channel : Nat) (buffer : List Byte) (length planeIndex : Nat) (s : State) : State :=
  { s with
    chan := s.chan.modify channel fun ch =>
      { ch with
        status := .idle
        space := ch.space.writeBytes (planeAddr channel planeIndex s).toNat
          (dmaBytes buffer length s) }
    memAnswers := s.memAnswers.tail
    draws := s.draws + (length - buffer.length) + length + 1
    log := s.log ++ if memAnswer (padded buffer length s) then [] else [.dmaCopyFailed] }

/-- `dma_write` fails out of range with nothing changed, or ends with the channel idle, having been refused
or having written its range (R97). -/
theorem dmaWrite_eq (channel : Nat) (buffer : List Byte) (length planeIndex : Nat) (s : State) :
    ((s.chan.length ≤ channel ∨ maxPlanes ≤ planeIndex) ∧
      dmaWrite channel buffer length planeIndex s = (.error .invalidConfig, s)) ∨
    (channel < s.chan.length ∧ planeIndex < maxPlanes ∧
      dmaSpaceSize < (planeAddr channel planeIndex s).toNat + length ∧
      dmaWrite channel buffer length planeIndex s =
        (.error .dmaFailure, dmaRefused channel buffer length s)) ∨
    (channel < s.chan.length ∧ planeIndex < maxPlanes ∧
      (planeAddr channel planeIndex s).toNat + length ≤ dmaSpaceSize ∧
      dmaWrite channel buffer length planeIndex s =
        (if memAnswer (padded buffer length s) then .ok else .error .dmaFailure,
          dmaWritten channel buffer length planeIndex s)) := by
  by_cases h : s.chan.length ≤ channel ∨ maxPlanes ≤ planeIndex
  · exact .inl ⟨h, by simp [dmaWrite, h, raise]⟩
  · have h' := h
    rw [not_or, Nat.not_le, Nat.not_le] at h'
    obtain ⟨hc, hp⟩ := h'
    right
    have addr : planeAddr channel planeIndex (s.setChanStatus channel .generating) =
        planeAddr channel planeIndex s := rfl
    rcases memWrite_eq channel (planeAddr channel planeIndex s) (bufferBytes buffer length s.draws)
        { s.setChanStatus channel .generating with draws := s.draws + (length - buffer.length) } with
      ⟨far, eq⟩ | ⟨fits, eq⟩
    · refine .inl ⟨hc, hp, by simpa using far, ?_⟩
      simp only [dmaWrite, h, if_false, addr, setChanStatus_draws, eq]
      simp [State.setChanStatus, State.logged, dmaRefused, List.modify_modify_eq, Function.comp_def]
    · refine .inr ⟨hc, hp, by simpa using fits, ?_⟩
      simp only [dmaWrite, h, if_false, addr, setChanStatus_draws, eq]
      simp only [State.setChanStatus, State.logged, dmaWritten, List.modify_modify_eq,
        Function.comp_def, bufferBytes_length]
      rfl

/-! ### The timer events -/

/-- The state of a starting frame before its DMA write (R106). -/
def frameBegun (s : State) : State :=
  arm .fe (s.reg .vvalidDuration) (raiseFlag irqFrameStart { s with status := .frameValid })

/-- `frame_start_fire()` halts, stops, or begins the frame and writes it (R106). -/
theorem frameStartFire_eq (s : State) :
    (s.status ≠ .blanking ∧ frameStartFire s = consistencyViolation s) ∨
    (s.status = .blanking ∧ s.stopRequested = true ∧ frameStartFire s = stopGeneration s) ∨
    (s.status = .blanking ∧ s.stopRequested = false ∧
      frameStartFire s =
        (dmaWrite primaryChannel (s.cache.getD []) s.cacheLen 0 (frameBegun s)).2.logged
          (if (dmaWrite primaryChannel (s.cache.getD []) s.cacheLen 0 (frameBegun s)).1 = .ok then []
            else [.frameLost])) := by
  unfold frameStartFire
  by_cases h : s.status = .blanking
  · by_cases hs : s.stopRequested = true
    · exact .inr (.inl ⟨h, hs, by simp [h, hs]⟩)
    · refine .inr (.inr ⟨h, by simpa using hs, ?_⟩)
      have vv : (raiseFlag irqFrameStart { s with status := .frameValid }).reg .vvalidDuration =
          s.reg .vvalidDuration :=
        reg_setReg_other { s with status := .frameValid } (x := .irqReg) (s.reg .irqReg ||| irqFrameStart)
          (by decide)
      rw [if_neg (not_not.2 h), if_neg hs]
      simp only [vv]
      rfl
  · exact .inl ⟨h, by simp [h]⟩

/-- `frame_end_fire()` halts, stops, or begins blanking (R107). -/
theorem frameEndFire_eq (s : State) :
    (s.status ≠ .frameValid ∧ frameEndFire s = consistencyViolation s) ∨
    (s.status = .frameValid ∧ s.stopRequested = true ∧
      frameEndFire s = stopGeneration (s.logged (idleCheckEntries s))) ∨
    (s.status = .frameValid ∧ s.stopRequested = false ∧
      frameEndFire s = arm .fs (s.reg .vblankDuration)
        (raiseFlag irqFrameEnd { s.logged (idleCheckEntries s) with status := .blanking })) := by
  unfold frameEndFire
  by_cases h : s.status = .frameValid
  · by_cases hs : s.stopRequested = true
    · exact .inr (.inl ⟨h, hs, (if_neg (not_not.2 h)).trans (if_pos hs)⟩)
    · refine .inr (.inr ⟨h, by simpa using hs, ?_⟩)
      have vb : (raiseFlag irqFrameEnd { checkDmaIdle s with status := .blanking }).reg
          .vblankDuration = s.reg .vblankDuration :=
        reg_setReg_other { checkDmaIdle s with status := .blanking } (x := .irqReg)
          (s.reg .irqReg ||| irqFrameEnd) (by decide)
      refine ((if_neg (not_not.2 h)).trans (if_neg hs)).trans ?_
      simp only [vb]
      rfl
  · exact .inl ⟨h, by simp [h]⟩

end Sys2Proof.Machine
end

