-- ==== Sys2Proof/Laws/Step.lean ====
section
/-! SUPPORT. What a decoded operation and a step can do, said once. -/

namespace Sys2Proof.Machine

/-! ### Decoded operations -/

/-- Every host write is `register_write` at its offset (R64). -/
theorem exec_decodeWrite (off v : Word) (s : State) :
    exec (decodeWrite off v) s = hostWrite off v s := by
  unfold decodeWrite
  split
  · cases h : regAt off with
    | none => rfl
    | some x =>
      obtain rfl := regAt_eq_some.1 h
      cases x
      case enable => by_cases hv : v = 0#32 <;> simp [hv] <;> rfl
      all_goals rfl
  · rfl

/-- Every host read is `register_read` at its offset (R65). -/
theorem exec_decodeRead (off : Word) (s : State) : exec (decodeRead off) s = hostRead off s := by
  unfold decodeRead
  split
  · cases h : regAt off with
    | none => rfl
    | some x =>
      obtain rfl := regAt_eq_some.1 h
      cases x <;> rfl
  · rfl

/-- What a word decodes to. -/
theorem decode_ok {w : OpWord} {i : Instr} (h : decode w = .ok i) :
    (opKind w = kindRead ∧ i = decodeRead (opOffset w)) ∨
    (opKind w = kindWrite ∧ i = decodeWrite (opOffset w) (opData w)) ∨
    (opKind w = kindEvent ∧ opOffset w = timerCode .fs ∧ i = .evFrameStart) ∨
    (opKind w = kindEvent ∧ opOffset w = timerCode .fe ∧ i = .evFrameEnd) := by
  unfold decode decodeEvent at h
  split_ifs at h with h1 h2 h3 h4 h5
  · exact .inl ⟨h1, (Except.ok.inj h).symm⟩
  · exact .inr (.inl ⟨h2, (Except.ok.inj h).symm⟩)
  · exact .inr (.inr (.inl ⟨h3, h4, (Except.ok.inj h).symm⟩))
  · exact .inr (.inr (.inr ⟨h3, h5, (Except.ok.inj h).symm⟩))

/-- The four things an operation with an operation word can do in a block that runs. -/
theorem exec_decoded {w : OpWord} {i : Instr} {s t : State} (hd : decode w = .ok i)
    (he : exec i s = .next t) :
    s.halted = false ∧
    ((opKind w = kindRead ∧ i = decodeRead (opOffset w) ∧
        t = s.withResult (some (registerRead (opOffset w) s))) ∨
      (opKind w = kindWrite ∧ i = decodeWrite (opOffset w) (opData w) ∧
        t = (registerWrite (opOffset w) (opData w) s).2.withResult
          (some (registerWrite (opOffset w) (opData w) s).1)) ∨
      (i = .evFrameStart ∧ s.fs.pending = true ∧ s.fs.deadline ≤ s.now ∧
        t = (frameStartFire (clearPending .fs s)).withResult none) ∨
      (i = .evFrameEnd ∧ s.fe.pending = true ∧ s.fe.deadline ≤ s.now ∧
        t = (frameEndFire (clearPending .fe s)).withResult none)) := by
  rcases decode_ok hd with ⟨hk, rfl⟩ | ⟨hk, rfl⟩ | ⟨_, _, rfl⟩ | ⟨_, _, rfl⟩
  · rw [exec_decodeRead] at he
    obtain ⟨hr, rfl⟩ := answering_next.1 he
    exact ⟨hr, .inl ⟨hk, rfl, rfl⟩⟩
  · rw [exec_decodeWrite] at he
    obtain ⟨hr, rfl⟩ := answering_next.1 he
    exact ⟨hr, .inr (.inl ⟨hk, rfl, rfl⟩)⟩
  · obtain ⟨hr, hp, hd, rfl⟩ := timerEvent_next.1 he
    exact ⟨hr, .inr (.inr (.inl ⟨rfl, hp, hd, rfl⟩))⟩
  · obtain ⟨hr, hp, hd, rfl⟩ := timerEvent_next.1 he
    exact ⟨hr, .inr (.inr (.inr ⟨rfl, hp, hd, rfl⟩))⟩

/-! ### The step -/

/-- A request's turn runs the operation its word decodes to, at its time. -/
theorem requestTurn_run {r : Request} {rest : List Request} {s s1 : State} {i : Instr}
    (h : requestTurn r rest s = .run i s1) :
    decode r.word = .ok i ∧ s1 = { s with now := arrivesAt r s, inbox := rest } := by
  unfold requestTurn at h
  split at h
  · next j hd =>
    injection h with h1 h2
    exact ⟨h1 ▸ hd, h2.symm⟩
  · exact absurd h (by simp)

/-- A request's turn never waits. -/
theorem requestTurn_ne_idle (r : Request) (rest : List Request) (s : State) :
    requestTurn r rest s ≠ .idle := by
  unfold requestTurn
  split <;> simp

/-- A turn that runs an operation is a request's, taken in time, or a pending timer's. -/
theorem nextTurn_run {s s1 : State} {i : Instr} (h : nextTurn s = .run i s1) :
    s.halted = false ∧
    ((∃ r rest, s.inbox = r :: rest ∧ decode r.word = .ok i ∧
        (∀ x, pendingTimer s = some x → arrivesAt r s ≤ firesAt x s) ∧
        s1 = { s with now := arrivesAt r s, inbox := rest }) ∨
      (∃ x, pendingTimer s = some x ∧ i = eventOf x ∧
        (∀ r rest, s.inbox = r :: rest → firesAt x s < arrivesAt r s) ∧
        s1 = { s with now := firesAt x s })) := by
  unfold nextTurn at h
  split at h
  · exact absurd h (by simp)
  · next hh =>
    refine ⟨by simpa using hh, ?_⟩
    split at h
    · exact absurd h (by simp)
    · next x hi hp =>
      injection h with h1 h2
      exact .inr ⟨x, hp, h1.symm, by simp [hi], h2.symm⟩
    · next r rest hi hp =>
      obtain ⟨hd, rfl⟩ := requestTurn_run h
      exact .inl ⟨r, rest, hi, hd, by simp [hp], rfl⟩
    · next r rest x hi hp =>
      split at h
      · next first =>
        obtain ⟨hd, rfl⟩ := requestTurn_run h
        refine .inl ⟨r, rest, hi, hd, fun y hy => ?_, rfl⟩
        obtain rfl : x = y := Option.some.inj (hp.symm.trans hy)
        simpa [requestFirst] using first
      · next later =>
        injection h with h1 h2
        refine .inr ⟨x, hp, h1.symm, fun r' rest' hi' => ?_, h2.symm⟩
        obtain ⟨rfl, rfl⟩ := List.cons.inj (hi.symm.trans hi')
        simpa [requestFirst] using later

/-- The block waits only when nothing is presented and no timer is pending. -/
theorem nextTurn_idle {s : State} (h : nextTurn s = .idle) :
    s.halted = false ∧ s.inbox = [] ∧ pendingTimer s = none := by
  unfold nextTurn at h
  split at h
  · exact absurd h (by simp)
  · next hh =>
    split at h
    · next hi hp => exact ⟨by simpa using hh, hi, hp⟩
    · exact absurd h (by simp [fireTurn])
    · exact absurd h (requestTurn_ne_idle _ _ _)
    · split at h
      · exact absurd h (requestTurn_ne_idle _ _ _)
      · exact absurd h (by simp [fireTurn])

/-- A step that answers a next state waits, or runs a request's operation, or fires a pending timer; the
clock moves to the time of the operation, a request's never past a pending timer's last instant. A timer
fires by itself only when no request comes first. -/
theorem step_next {s t : State} (h : step s = .next t) :
    s.halted = false ∧
    ((s.inbox = [] ∧ pendingTimer s = none ∧ t = s) ∨
      (∃ r rest i, s.inbox = r :: rest ∧ decode r.word = .ok i ∧
        (∀ x, pendingTimer s = some x → arrivesAt r s ≤ firesAt x s) ∧
        exec i { s with now := arrivesAt r s, inbox := rest } = .next t) ∨
      (∃ x, pendingTimer s = some x ∧
        (∀ r rest, s.inbox = r :: rest → firesAt x s < arrivesAt r s) ∧
        exec (eventOf x) { s with now := firesAt x s } = .next t)) := by
  unfold step at h
  split at h
  · exact absurd h (by simp)
  · next hn =>
    obtain ⟨hh, hi, hp⟩ := nextTurn_idle hn
    injection h with h
    exact ⟨hh, .inl ⟨hi, hp, h.symm⟩⟩
  · next hn =>
    obtain ⟨hh, ⟨r, rest, hi, hd, first, rfl⟩ | ⟨x, hp, rfl, later, rfl⟩⟩ := nextTurn_run hn
    · exact ⟨hh, .inr (.inl ⟨r, rest, _, hi, hd, first, h⟩)⟩
    · exact ⟨hh, .inr (.inr ⟨x, hp, later, h⟩)⟩
  · exact absurd h (by simp)

/-- A timer the schedule picks is pending. -/
theorem pendingTimer_pending {s : State} {x : TimerId} (h : pendingTimer s = some x) :
    (s.timer x).pending = true := by
  unfold pendingTimer at h
  split_ifs at h with h1 h2
  · obtain rfl := Option.some.inj h
    simp only [Bool.and_eq_true] at h1
    exact h1.1
  · obtain rfl := Option.some.inj h
    exact h2

end Sys2Proof.Machine
end

