-- ==== Sys2Proof/Laws/Effects.lean ====
section
/-! SUPPORT. The whole effect of each operation that moves the device, written out field by field, once:
a proof over all operations is a case analysis of these. -/

namespace Sys2Proof.Machine

/-- The word of `IRQ_REG` after it was stored. -/
theorem irqWord_of_bank {s t : State} {v : Word} (h : t.bank = s.bank.setIfInBounds 12 v) :
    t.word 0x30#32 = v :=
  (word_congr t (s.setWord 0x30#32 v) h _).trans (word_setWord_same s v (by decide))

/-- Every other word after `IRQ_REG` was stored. -/
theorem word_of_bank_irq {s t : State} {v off : Word} (h : t.bank = s.bank.setIfInBounds 12 v)
    (valid : validOffset off = true) (ne : off ≠ 0x30#32) : t.word off = s.word off :=
  (word_congr t (s.setWord 0x30#32 v) h _).trans (word_setWord_other s v (by decide) valid ne)

/-- The state of a starting frame before its DMA write (R106). -/
theorem frameBegun_eq (s : State) :
    frameBegun s =
      { s with
        status := .frameValid
        bank := s.bank.setIfInBounds 12 (s.word 0x30#32 ||| 1#32)
        irqLine := s.word 0x30#32 ||| 1#32
        irqTrace := s.irqTrace ++ [s.word 0x30#32 ||| 1#32]
        fe := { s.fe with pending := true, deadline := s.now + (s.word 0x28#32).toNat * 1000 } } := by
  rw [frameBegun, raiseFlag_eq]
  rfl

/-- The frame's destination is the address now in the address registers (R47, R106). -/
theorem planeAddr_frameBegun (s : State) :
    planeAddr primaryChannel 0 (frameBegun s) =
      planeAddress (s.word 0x0C#32) (s.word 0x08#32) := by
  have bank : (frameBegun s).bank = s.bank.setIfInBounds 12 (s.word 0x30#32 ||| 1#32) := by
    rw [frameBegun_eq]
  show planeAddress ((frameBegun s).word 0x0C#32) ((frameBegun s).word 0x08#32) = _
  rw [word_of_bank_irq bank (by decide) (by decide), word_of_bank_irq bank (by decide) (by decide)]

/-- What a frame's DMA write can do to a channel: it ends idle, and its space is as it was or has a byte
string of the latched length at the destination. -/
def FrameTouches (s : State) (touch : Channel → Channel) : Prop :=
  ∀ ch, (touch ch).enable = ch.enable ∧ (touch ch).status = .idle ∧
    ((touch ch).space = ch.space ∨
      ∃ bytes : List Byte, bytes.length = s.cacheLen ∧
        (planeAddress (s.word 0x0C#32) (s.word 0x08#32)).toNat + bytes.length ≤ 2 ^ 64 ∧
        (touch ch).space =
          ch.space.writeBytes (planeAddress (s.word 0x0C#32) (s.word 0x08#32)).toNat bytes)

/-- The frame-start event after `FS.pending <- 0`: halt, stop, or frame (R106). -/
theorem frameStartFire_effect (s : State) :
    (s.status ≠ .blanking ∧ frameStartFire s = { s with halted := true }) ∨
    (s.status = .blanking ∧ s.stopRequested = true ∧
      frameStartFire s =
        { s with status := .idle, cache := none, cacheLen := 0, stopRequested := false }) ∨
    (s.status = .blanking ∧ s.stopRequested = false ∧ ∃ chan answers draws log,
      frameStartFire s =
        { s with
          status := .frameValid
          bank := s.bank.setIfInBounds 12 (s.word 0x30#32 ||| 1#32)
          irqLine := s.word 0x30#32 ||| 1#32
          irqTrace := s.irqTrace ++ [s.word 0x30#32 ||| 1#32]
          fe := { s.fe with pending := true, deadline := s.now + (s.word 0x28#32).toNat * 1000 }
          chan := chan
          memAnswers := answers
          draws := draws
          log := log } ∧
      ((chan = s.chan ∧ s.chan = []) ∨
        ∃ touch, chan = s.chan.modify 0 touch ∧ FrameTouches s touch)) := by
  rcases frameStartFire_eq s with ⟨h, eq⟩ | ⟨h, stop, eq⟩ | ⟨h, stop, eq⟩
  · exact .inl ⟨h, eq⟩
  · exact .inr (.inl ⟨h, stop, eq⟩)
  · refine .inr (.inr ⟨h, stop, ?_⟩)
    rw [eq]
    rcases dmaWrite_eq primaryChannel (s.cache.getD []) s.cacheLen 0 (frameBegun s) with
      ⟨out, eq⟩ | ⟨_, _, _, eq⟩ | ⟨_, _, fits, eq⟩ <;> rw [eq]
    · have none : s.chan = [] := by
        rcases out with out | out
        · exact List.eq_nil_of_length_eq_zero (Nat.le_zero.1 out)
        · exact absurd out (by decide)
      exact ⟨s.chan, _, _, _, by rw [frameBegun_eq]; rfl, .inl ⟨rfl, none⟩⟩
    · exact ⟨_, _, _, _, by rw [frameBegun_eq]; rfl,
        .inr ⟨fun ch => { ch with status := .idle }, rfl, fun ch => ⟨rfl, rfl, .inl rfl⟩⟩⟩
    · rw [planeAddr_frameBegun] at fits
      rw [dmaWritten, planeAddr_frameBegun]
      have length : (dmaBytes (s.cache.getD []) s.cacheLen (frameBegun s)).length = s.cacheLen := by
        simp
      generalize dmaBytes (s.cache.getD []) s.cacheLen (frameBegun s) = bytes at *
      exact ⟨s.chan.modify 0 fun ch =>
          { ch with
            status := .idle
            space := ch.space.writeBytes
              (planeAddress (s.word 0x0C#32) (s.word 0x08#32)).toNat bytes },
        _, _, _, by rw [frameBegun_eq]; rfl,
        .inr ⟨_, rfl, fun ch => ⟨rfl, rfl, .inr ⟨bytes, length, by simpa [dmaSpaceSize, length] using fits, rfl⟩⟩⟩⟩

/-- The frame-end event after `FE.pending <- 0`: halt, stop, or blanking (R107). -/
theorem frameEndFire_effect (s : State) :
    (s.status ≠ .frameValid ∧ frameEndFire s = { s with halted := true }) ∨
    (s.status = .frameValid ∧ s.stopRequested = true ∧
      frameEndFire s =
        { s with status := .idle, cache := none, cacheLen := 0, stopRequested := false,
                 log := s.log ++ idleCheckEntries s }) ∨
    (s.status = .frameValid ∧ s.stopRequested = false ∧
      frameEndFire s =
        { s with
          status := .blanking
          bank := s.bank.setIfInBounds 12 (s.word 0x30#32 ||| 2#32)
          irqLine := s.word 0x30#32 ||| 2#32
          irqTrace := s.irqTrace ++ [s.word 0x30#32 ||| 2#32]
          fs := { s.fs with pending := true, deadline := s.now + (s.word 0x2C#32).toNat * 1000 }
          log := s.log ++ idleCheckEntries s }) := by
  rcases frameEndFire_eq s with ⟨h, eq⟩ | ⟨h, stop, eq⟩ | ⟨h, stop, eq⟩
  · exact .inl ⟨h, eq⟩
  · exact .inr (.inl ⟨h, stop, eq⟩)
  · refine .inr (.inr ⟨h, stop, ?_⟩)
    rw [eq, raiseFlag_eq]
    rfl

/-- A host write: an error, an enable, a disable, a forwarded write of `IRQ_REG`, or a plain store (R64,
R67). -/
theorem registerWrite_effect (off v : Word) (s : State) :
    (∃ k, registerWrite off v s = (.error k, s)) ∨
    (s.status = .idle ∧ off = regOffset .enable ∧ v ≠ 0#32 ∧
      ∃ k, registerWrite off v s = (.error k, withTimers s)) ∨
    (s.status = .idle ∧ off = regOffset .enable ∧ v ≠ 0#32 ∧
      validateDmaConfig primaryChannel 1 s = .ok ∧ s.cache = none ∧
      registerWrite off v s = (.ok, { started s with bank := s.bank.setIfInBounds 0 v })) ∨
    (s.status = .idle ∧ off = regOffset .enable ∧ v = 0#32 ∧
      registerWrite off v s =
        (.ok, { s with cache := none, cacheLen := 0, bank := s.bank.setIfInBounds 0 v })) ∨
    (s.status ≠ .idle ∧ off = regOffset .enable ∧ v = 0#32 ∧
      registerWrite off v s =
        (.ok, { s with stopRequested := true, bank := s.bank.setIfInBounds 0 v })) ∨
    (off = regOffset .irqReg ∧ irqForwards (s.reg .irqReg) v = true ∧
      registerWrite off v s =
        (.ok, { s with irqLine := v, irqTrace := s.irqTrace ++ [v],
                       bank := s.bank.setIfInBounds 12 v })) ∨
    (validOffset off = true ∧ off ≠ regOffset .enable ∧
      registerWrite off v s = (.ok, { s with bank := s.bank.setIfInBounds (bankIndex off) v })) := by
  rcases registerWrite_cases off v s with ⟨_, h⟩ |
    ⟨valid, ⟨h0, hv, ⟨k, s1, h1, h2⟩ | ⟨h1, h2⟩⟩ | ⟨h0, hv, h⟩ | ⟨h0, h⟩ | ⟨h0, _, h⟩⟩
  · exact .inl ⟨_, h⟩
  · rcases enable_eq s with ⟨_, _, _, _, _, _, h⟩ | ⟨k', _, h | ⟨hi, h⟩⟩
    · exact absurd (congrArg Prod.fst (h.symm.trans h1)) (by simp)
    · obtain ⟨_, rfl⟩ := Prod.mk.inj (h.symm.trans h1)
      exact .inl ⟨_, h2⟩
    · obtain ⟨_, rfl⟩ := Prod.mk.inj (h.symm.trans h1)
      exact .inr (.inl ⟨hi, h0, hv, _, h2⟩)
  · rcases enable_eq s with ⟨idle, ok, _, none, _, _, h⟩ | ⟨k', _, h | ⟨_, h⟩⟩
    · refine .inr (.inr (.inl ⟨idle, h0, hv, ok, none, ?_⟩))
      rw [h2, h0]
      rfl
    · exact absurd (congrArg Prod.fst (h.symm.trans h1)) (by simp)
    · exact absurd (congrArg Prod.fst (h.symm.trans h1)) (by simp)
  · by_cases idle : s.status = .idle
    · refine .inr (.inr (.inr (.inl ⟨idle, h0, hv, ?_⟩)))
      rw [h, h0, disable, if_pos idle]
      rfl
    · refine .inr (.inr (.inr (.inr (.inl ⟨idle, h0, hv, ?_⟩))))
      rw [h, h0, disable, if_neg idle]
      rfl
  · by_cases forwards : irqForwards (s.reg .irqReg) v = true
    · refine .inr (.inr (.inr (.inr (.inr (.inl ⟨h0, forwards, ?_⟩)))))
      rw [h, h0, irqHostWrite, if_pos forwards]
      rfl
    · refine .inr (.inr (.inr (.inr (.inr (.inr ⟨valid, by rw [h0]; decide, ?_⟩)))))
      rw [h, irqHostWrite, if_neg forwards]
      rfl
  · exact .inr (.inr (.inr (.inr (.inr (.inr ⟨valid, h0, h⟩)))))

/-- The events decode from their words. -/
theorem decode_event (x : TimerId) : decode (packWord kindEvent (timerCode x) 0#32) = .ok (eventOf x) := by
  cases x <;> decide +kernel

/-- Under the invariants a step waits, or runs one decoded operation with the clock moved forward, past
no pending timer's last instant. -/
theorem step_decoded {s t : State} (inv : Invariants s) (h : step s = .next t) :
    t = s ∨ ∃ (w : OpWord) (i : Instr) (now : Nat) (inbox : List Request),
      decode w = .ok i ∧ s.now ≤ now ∧
      (∀ x, (s.timer x).pending = true → now ≤ (s.timer x).deadline + s.params.timerLateness) ∧
      exec i { s with now := now, inbox := inbox } = .next t := by
  have only : ∀ x, (s.timer x).pending = true → pendingTimer s = some x := by
    obtain ⟨hfs, hfe⟩ := inv.timersMatchStatus
    intro x hx
    cases x
    · have hx : s.fs.pending = true := hx
      have status : s.status = .blanking := by simpa [hfs] using hx
      simp [pendingTimer, hx, hfe, status]
    · have hx : s.fe.pending = true := hx
      have status : s.status = .frameValid := by simpa [hfe] using hx
      simp [pendingTimer, hx, hfs, status]
  have inTime : ∀ x, (s.timer x).pending = true →
      firesAt x s ≤ (s.timer x).deadline + s.params.timerLateness := fun x hx =>
    max_le (inv.noTimerMissed x hx) le_rfl
  obtain ⟨_, ⟨_, _, rfl⟩ | ⟨r, rest, i, _, hd, first, he⟩ | ⟨x, hp, _, he⟩⟩ := step_next h
  · exact .inl rfl
  · exact .inr ⟨r.word, i, _, rest, hd, le_max_left _ _,
      fun x hx => (first x (only x hx)).trans (inTime x hx), he⟩
  · refine .inr ⟨_, eventOf x, _, s.inbox, decode_event x, le_max_left _ _, fun y hy => ?_, he⟩
    obtain rfl : x = y := Option.some.inj (hp.symm.trans (only y hy))
    exact inTime _ hy

end Sys2Proof.Machine
end

