-- ==== Sys2Proof/Laws/PerInstr.lean ====
section
/-! SUPPORT. A statement per operation: its operation word selects its own row of
`spec/opcode_table.json`. -/

namespace Sys2Proof.Laws.EncodingInItsRow

open Sys2Proof.Machine

/-- The word of a well-formed operation selects a row that has the operation's mnemonic (R53). -/
def Statement (i : Instr) : Prop :=
  WellFormed i = true → ∀ w, encode i = some w →
    ∃ r ∈ opcodeRows, r.mnemonic = mnemonicOf i ∧ r.selects w = true

/-- A row of the table found by its place selects a packed word. -/
theorem row_selects {i : Instr} {k : BitVec 2} {o d : Word} (r : Row) (mem : r ∈ opcodeRows)
    (name : r.mnemonic = mnemonicOf i)
    (hk : k &&& r.mask.extractLsb' 32 2 = r.pattern.extractLsb' 32 2)
    (ho : o &&& r.mask.extractLsb' 0 32 = r.pattern.extractLsb' 0 32)
    (hd : r.cond.holds d = true) (enc : encode i = some (packWord k o d)) : Statement i := by
  intro _ w hw
  obtain rfl := Option.some.inj (enc.symm.trans hw)
  exact ⟨r, mem, name, (selects_iff r _).2 ⟨⟨by simpa using hk, by simpa using ho⟩, by simpa using hd⟩⟩

/-- An operation with no operation word. -/
theorem no_word {i : Instr} (enc : encode i = none) : Statement i := by
  intro _ w hw
  rw [enc] at hw
  exact absurd hw (by simp)

theorem wrEnableOn (value : Word) : Statement (.wrEnableOn value) := by
  intro wf
  exact row_selects (opcodeRows[0]) (List.getElem_mem _) rfl (by decide) (by decide) wf rfl wf

theorem wrEnableOff : Statement .wrEnableOff :=
  row_selects (opcodeRows[1]) (List.getElem_mem _) rfl (by decide) (by decide) rfl rfl

theorem wrOutAddrLo0 (value : Word) : Statement (.wrOutAddrLo0 value) :=
  row_selects (opcodeRows[2]) (List.getElem_mem _) rfl (by decide) (by decide) rfl rfl

theorem wrOutAddrHi0 (value : Word) : Statement (.wrOutAddrHi0 value) :=
  row_selects (opcodeRows[3]) (List.getElem_mem _) rfl (by decide) (by decide) rfl rfl

theorem wrOutAddrLo1 (value : Word) : Statement (.wrOutAddrLo1 value) :=
  row_selects (opcodeRows[4]) (List.getElem_mem _) rfl (by decide) (by decide) rfl rfl

theorem wrOutAddrHi1 (value : Word) : Statement (.wrOutAddrHi1 value) :=
  row_selects (opcodeRows[5]) (List.getElem_mem _) rfl (by decide) (by decide) rfl rfl

theorem wrOutFormat (value : Word) : Statement (.wrOutFormat value) :=
  row_selects (opcodeRows[6]) (List.getElem_mem _) rfl (by decide) (by decide) rfl rfl

theorem wrOutWidth (value : Word) : Statement (.wrOutWidth value) :=
  row_selects (opcodeRows[7]) (List.getElem_mem _) rfl (by decide) (by decide) rfl rfl

theorem wrOutHeight (value : Word) : Statement (.wrOutHeight value) :=
  row_selects (opcodeRows[8]) (List.getElem_mem _) rfl (by decide) (by decide) rfl rfl

theorem wrOutStatus (value : Word) : Statement (.wrOutStatus value) :=
  row_selects (opcodeRows[9]) (List.getElem_mem _) rfl (by decide) (by decide) rfl rfl

theorem wrVvalidDuration (value : Word) : Statement (.wrVvalidDuration value) :=
  row_selects (opcodeRows[10]) (List.getElem_mem _) rfl (by decide) (by decide) rfl rfl

theorem wrVblankDuration (value : Word) : Statement (.wrVblankDuration value) :=
  row_selects (opcodeRows[11]) (List.getElem_mem _) rfl (by decide) (by decide) rfl rfl

theorem wrIrqReg (value : Word) : Statement (.wrIrqReg value) :=
  row_selects (opcodeRows[12]) (List.getElem_mem _) rfl (by decide) (by decide) rfl rfl

theorem wrUnnamed (offset value : Word) : Statement (.wrUnnamed offset value) := by
  intro wf
  refine row_selects (opcodeRows[13]) (List.getElem_mem _) rfl (by decide) ?_ rfl rfl wf
  simp only [WellFormed, unnamedOffset, Bool.and_eq_true, validOffset, beq_iff_eq] at wf
  exact wf.1

theorem wrInvalid (offset value : Word) : Statement (.wrInvalid offset value) := by
  refine row_selects (opcodeRows[14]) (List.getElem_mem _) rfl (by decide) ?_ rfl rfl
  exact BitVec.and_zero

theorem rdEnable : Statement .rdEnable :=
  row_selects (opcodeRows[15]) (List.getElem_mem _) rfl (by decide) (by decide) rfl rfl

theorem rdOutAddrLo0 : Statement .rdOutAddrLo0 :=
  row_selects (opcodeRows[16]) (List.getElem_mem _) rfl (by decide) (by decide) rfl rfl

theorem rdOutAddrHi0 : Statement .rdOutAddrHi0 :=
  row_selects (opcodeRows[17]) (List.getElem_mem _) rfl (by decide) (by decide) rfl rfl

theorem rdOutAddrLo1 : Statement .rdOutAddrLo1 :=
  row_selects (opcodeRows[18]) (List.getElem_mem _) rfl (by decide) (by decide) rfl rfl

theorem rdOutAddrHi1 : Statement .rdOutAddrHi1 :=
  row_selects (opcodeRows[19]) (List.getElem_mem _) rfl (by decide) (by decide) rfl rfl

theorem rdOutFormat : Statement .rdOutFormat :=
  row_selects (opcodeRows[20]) (List.getElem_mem _) rfl (by decide) (by decide) rfl rfl

theorem rdOutWidth : Statement .rdOutWidth :=
  row_selects (opcodeRows[21]) (List.getElem_mem _) rfl (by decide) (by decide) rfl rfl

theorem rdOutHeight : Statement .rdOutHeight :=
  row_selects (opcodeRows[22]) (List.getElem_mem _) rfl (by decide) (by decide) rfl rfl

theorem rdOutStatus : Statement .rdOutStatus :=
  row_selects (opcodeRows[23]) (List.getElem_mem _) rfl (by decide) (by decide) rfl rfl

theorem rdVvalidDuration : Statement .rdVvalidDuration :=
  row_selects (opcodeRows[24]) (List.getElem_mem _) rfl (by decide) (by decide) rfl rfl

theorem rdVblankDuration : Statement .rdVblankDuration :=
  row_selects (opcodeRows[25]) (List.getElem_mem _) rfl (by decide) (by decide) rfl rfl

theorem rdIrqReg : Statement .rdIrqReg :=
  row_selects (opcodeRows[26]) (List.getElem_mem _) rfl (by decide) (by decide) rfl rfl

theorem rdUnnamed (offset : Word) : Statement (.rdUnnamed offset) := by
  intro wf
  refine row_selects (opcodeRows[27]) (List.getElem_mem _) rfl (by decide) ?_ rfl rfl wf
  simp only [WellFormed, unnamedOffset, Bool.and_eq_true, validOffset, beq_iff_eq] at wf
  exact wf.1

theorem rdInvalid (offset : Word) : Statement (.rdInvalid offset) := by
  refine row_selects (opcodeRows[28]) (List.getElem_mem _) rfl (by decide) ?_ rfl rfl
  exact BitVec.and_zero

theorem evFrameStart : Statement .evFrameStart :=
  row_selects (opcodeRows[29]) (List.getElem_mem _) rfl (by decide) (by decide) rfl rfl

theorem evFrameEnd : Statement .evFrameEnd :=
  row_selects (opcodeRows[30]) (List.getElem_mem _) rfl (by decide) (by decide) rfl rfl

theorem intRegisterWrite (offset value : Word) : Statement (.intRegisterWrite offset value) := no_word rfl

theorem intRegisterRead (offset : Word) : Statement (.intRegisterRead offset) := no_word rfl

theorem intHandlerWrite (offset value : Word) : Statement (.intHandlerWrite offset value) := no_word rfl

theorem intHandlerRead (offset : Word) : Statement (.intHandlerRead offset) := no_word rfl

theorem intValidateDmaConfig (channel planeCount : Nat) : Statement (.intValidateDmaConfig channel planeCount) := no_word rfl

theorem intDmaWrite (channel : Nat) (buffer : List Byte) (length planeIndex : Nat) : Statement (.intDmaWrite channel buffer length planeIndex) := no_word rfl

theorem intMemWrite (addr : Addr) (n : Nat) (bytes : List Byte) : Statement (.intMemWrite addr n bytes) := no_word rfl

theorem intCreateTimers : Statement .intCreateTimers := no_word rfl

theorem intAllocCache : Statement .intAllocCache := no_word rfl

theorem intReleaseCache : Statement .intReleaseCache := no_word rfl

theorem intArm (t : TimerId) (durUs : Word) : Statement (.intArm t durUs) := no_word rfl

theorem intSetIrq (value : Word) : Statement (.intSetIrq value) := no_word rfl

theorem intRaiseFlag (m : Word) : Statement (.intRaiseFlag m) := no_word rfl

end Sys2Proof.Laws.EncodingInItsRow
end

