-- ==== Sys2Proof/Tests/Slice0.lean ====
section
/-! SUPPORT. Tests: words written out from the spec's encoding, single steps whose expected values are the
spec's own vectors (`spec/95_test_vectors.md`), and for every statement with hypotheses a state that meets
them. -/

namespace Sys2Proof.Tests

open Sys2Proof Sys2Proof.Machine

-- one test after the other: many kernel evaluations at a time need more memory than the sandbox has
set_option Elab.async false

/-! ### Helpers -/

/-- The next state of an outcome. -/
def nextOf : Out → Option State
  | .next s => some s
  | .fault _ => none
  | .refused _ => none

/-- The refusal of an outcome. -/
def refusalOf : Out → Option Refusal
  | .next _ => none
  | .fault _ => none
  | .refused r => some r

/-- The decoded operation, if any. -/
def read (w : OpWord) : Option Instr := (decode w).toOption

/-- What a step that runs a word leaves, seen through `view`. -/
def seen {α : Type} (view : State → α) (w : OpWord) (s : State) : Option α :=
  (nextOf (step (present w s))).map view

/-- What an operation leaves, seen through `view`. -/
def left {α : Type} (view : State → α) (i : Instr) (s : State) : Option α := (nextOf (exec i s)).map view

/-- The configuration of `spec/95_test_vectors.md` section 2.5, at time 500; the next `MemWrite` answers
`ok`. -/
def ready : State :=
  let s := State.reset.setReg .outAddrLo0 0x1000#32
  let s := (s.setReg .outWidth 4#32).setReg .outHeight 4#32
  let s := (s.setReg .vvalidDuration 2000#32).setReg .vblankDuration 1000#32
  { s with now := 500, memAnswers := [true] }

/-- V49 at the time `FS` is due. -/
def blanking : State :=
  { ready.setReg .enable 1#32 with
    status := .blanking
    cache := some (List.replicate 16 0xDE#8)
    cacheLen := 16
    fs := { created := true, pending := true, deadline := 1000500 }
    fe := { created := true, pending := false, deadline := 0 }
    now := 1000500 }

/-- V50 at the time `FE` is due. -/
def frame : State :=
  { blanking.setReg .irqReg 1#32 with
    status := .frameValid
    irqLine := 1#32
    irqTrace := [1#32]
    fs := { created := true, pending := false, deadline := 1000500 }
    fe := { created := true, pending := true, deadline := 3000500 }
    now := 3000500 }

/-- A disable was written in V49 (V52). -/
def stopBlanking : State := { blanking.setReg .enable 0#32 with stopRequested := true }

/-- A disable was written in V50 (V54). -/
def stopFrame : State := { frame.setReg .enable 0#32 with stopRequested := true }

/-- A halted block. -/
def dead : State := { State.reset with halted := true }

/-! ### Well-formedness: an ill-formed term for each check -/

theorem test_wf_refuses :
    WellFormed (.wrEnableOn 0#32) = false ∧
    WellFormed (.wrUnnamed 0x30#32 1#32) = false ∧ WellFormed (.wrUnnamed 0x400#32 1#32) = false ∧
    WellFormed (.wrInvalid 0x3FC#32 1#32) = false ∧
    WellFormed (.rdUnnamed 0x24#32) = false ∧ WellFormed (.rdUnnamed 0x35#32) = false ∧
    WellFormed (.rdInvalid 0x04#32) = false ∧
    WellFormed (.intHandlerWrite 0x400#32 0#32) = false ∧
    WellFormed (.intHandlerRead 0x02#32) = false ∧
    WellFormed (.intDmaWrite 0 [0xDE#8] 2 0) = false ∧
    WellFormed (.intMemWrite 0#64 2 [0xDE#8]) = false ∧
    WellFormed (.intRaiseFlag 4#32) = false := by decide

theorem test_wf_accepts :
    WellFormed (.wrEnableOn 0x80000000#32) = true ∧ WellFormed (.wrUnnamed 0x3FC#32 0#32) = true ∧
    WellFormed (.wrInvalid 0x400#32 0#32) = true ∧ WellFormed (.rdUnnamed 0x04#32) = true ∧
    WellFormed (.rdInvalid 0x31#32) = true ∧ WellFormed (.intDmaWrite 0 [0xDE#8] 1 0) = true ∧
    WellFormed (.intRaiseFlag 2#32) = true := by decide

/-! ### Decoding: one word for every operation that has one, written out from R51, R52 and R60 -/

theorem test_decode_writes :
    read 0x10000000000000001#66 = some (.wrEnableOn 1#32) ∧
    read 0x10000000000000000#66 = some .wrEnableOff ∧
    read 0x10000000880001000#66 = some (.wrOutAddrLo0 0x80001000#32) ∧
    read 0x10000000CFFFFFFFF#66 = some (.wrOutAddrHi0 0xFFFFFFFF#32) ∧
    read 0x10000001012345678#66 = some (.wrOutAddrLo1 0x12345678#32) ∧
    read 0x100000014FFFFFFFF#66 = some (.wrOutAddrHi1 0xFFFFFFFF#32) ∧
    read 0x10000001800000063#66 = some (.wrOutFormat 99#32) ∧
    read 0x10000001C00000004#66 = some (.wrOutWidth 4#32) ∧
    read 0x10000002080000000#66 = some (.wrOutHeight 0x80000000#32) ∧
    read 0x10000002400000007#66 = some (.wrOutStatus 7#32) ∧
    read 0x100000028000007D0#66 = some (.wrVvalidDuration 2000#32) ∧
    read 0x10000002C000003E8#66 = some (.wrVblankDuration 1000#32) ∧
    read 0x10000003000000008#66 = some (.wrIrqReg 8#32) ∧
    read 0x10000000411223344#66 = some (.wrUnnamed 0x04#32 0x11223344#32) ∧
    read 0x10000040000000005#66 = some (.wrInvalid 0x400#32 5#32) := by decide +kernel

theorem test_decode_reads :
    read 0x00000000000000000#66 = some .rdEnable ∧
    read 0x00000000800000000#66 = some .rdOutAddrLo0 ∧
    read 0x00000000C00000000#66 = some .rdOutAddrHi0 ∧
    read 0x00000001000000000#66 = some .rdOutAddrLo1 ∧
    read 0x00000001400000000#66 = some .rdOutAddrHi1 ∧
    read 0x00000001800000000#66 = some .rdOutFormat ∧
    read 0x00000001C00000000#66 = some .rdOutWidth ∧
    read 0x00000002000000000#66 = some .rdOutHeight ∧
    read 0x00000002400000000#66 = some .rdOutStatus ∧
    read 0x00000002800000000#66 = some .rdVvalidDuration ∧
    read 0x00000002C00000000#66 = some .rdVblankDuration ∧
    read 0x00000003000000000#66 = some .rdIrqReg ∧
    read 0x0000003FC00000000#66 = some (.rdUnnamed 0x3FC#32) ∧
    read 0x0000003FF00000000#66 = some (.rdInvalid 0x3FF#32) := by decide +kernel

theorem test_decode_events :
    read 0x20000000000000000#66 = some .evFrameStart ∧
    read 0x20000000100000000#66 = some .evFrameEnd ∧
    decode 0x20000000200000000#66 = .error (.noSuchTimer 2#32) ∧
    decode 0x30000000000000000#66 = .error .noSuchKind := by decide +kernel

/-- A row's selector alone has the operand word 0; 66 bits and more are the whole word. -/
theorem test_table_words :
    decodeTableWord 40 0x100000008 = some (.wrOutAddrLo0 0#32) ∧
    decodeTableWord 40 0x200000001 = some .evFrameEnd ∧
    decodeTableWord 72 0x10000001C00000004 = some (.wrOutWidth 4#32) ∧
    decodeTableWord 40 0x300000000 = none ∧ decodeTableWord 72 0x40000000000000000 = none := by
  decide +kernel

/-! ### One step: host writes (expected values: V1 to V13, V16 to V19, V46 to V58, V71 to V79) -/

theorem test_wr_enable_on :
    seen (fun t => (t.result, t.status, t.word 0x00#32, t.cacheLen)) 0x10000000080000000#66 ready =
      some (some .ok, .blanking, 0x80000000#32, 16) := by decide +kernel
theorem test_wr_enable_on_timers :
    seen (fun t => (t.fs, t.fe.created, t.fe.pending, t.irqTrace)) 0x10000000000000001#66 ready =
      some (⟨true, true, 1000500⟩, true, false, []) := by decide +kernel
theorem test_wr_enable_off :
    seen (fun t => (t.result, t.status, t.stopRequested, t.fs)) 0x10000000000000000#66 blanking =
      some (some .ok, .blanking, true, blanking.fs) := by decide +kernel
theorem test_wr_enable_off_idle :
    seen (fun t => { t with result := none }) 0x10000000000000000#66 State.reset =
      some State.reset := by decide +kernel
theorem test_wr_out_addr_lo_0 :
    seen (fun t => (t.result, t.word 0x08#32)) 0x10000000880001000#66 State.reset =
      some (some .ok, 0x80001000#32) := by decide +kernel
theorem test_wr_out_addr_hi_0 :
    seen (fun t => (t.result, t.word 0x0C#32)) 0x10000000CFFFFFFFF#66 State.reset =
      some (some .ok, 0xFFFFFFFF#32) := by decide +kernel
theorem test_wr_out_addr_lo_1 :
    seen (fun t => (t.result, t.word 0x10#32)) 0x10000001012345678#66 State.reset =
      some (some .ok, 0x12345678#32) := by decide +kernel
theorem test_wr_out_addr_hi_1 :
    seen (fun t => (t.result, t.word 0x14#32)) 0x100000014FFFFFFFF#66 State.reset =
      some (some .ok, 0xFFFFFFFF#32) := by decide +kernel
theorem test_wr_out_format :
    seen (fun t => (t.result, t.word 0x18#32)) 0x10000001800000063#66 State.reset =
      some (some .ok, 99#32) := by decide +kernel
theorem test_wr_out_width :
    seen (fun t => (t.result, t.word 0x1C#32)) 0x10000001CFFFFFFFF#66 State.reset =
      some (some .ok, 0xFFFFFFFF#32) := by decide +kernel
theorem test_wr_out_height :
    seen (fun t => (t.result, t.word 0x20#32)) 0x10000002080000000#66 State.reset =
      some (some .ok, 0x80000000#32) := by decide +kernel
/-- V11: `status` still Idle. -/
theorem test_wr_out_status :
    seen (fun t => (t.result, t.status, registerRead 0x24#32 t)) 0x10000002400000007#66 State.reset =
      some (some .ok, .idle, .data 0#32) := by decide +kernel
theorem test_wr_vvalid_duration :
    seen (fun t => (t.result, t.word 0x28#32)) 0x100000028FFFFFFFF#66 State.reset =
      some (some .ok, 0xFFFFFFFF#32) := by decide +kernel
/-- A duration written while a timer is pending does not move its deadline. -/
theorem test_wr_vblank_duration :
    seen (fun t => (t.result, t.word 0x2C#32, t.fs)) 0x10000002C00000000#66 blanking =
      some (some .ok, 0#32, blanking.fs) := by decide +kernel
/-- V72. -/
theorem test_wr_irq_reg_forwarded :
    seen (fun t => (t.word 0x30#32, t.irqLine, t.irqTrace)) 0x10000003000000002#66
      { State.reset.setReg .irqReg 3#32 with irqLine := 3#32 } =
      some (2#32, 2#32, [2#32]) := by decide +kernel
/-- V78: only bit 2 changes. -/
theorem test_wr_irq_reg_stored :
    seen (fun t => (t.word 0x30#32, t.irqLine, t.irqTrace)) 0x10000003000000000#66
      { State.reset.setReg .irqReg 4#32 with irqLine := 4#32 } =
      some (0#32, 4#32, []) := by decide +kernel
/-- V13: the last word of the window. -/
theorem test_wr_unnamed :
    seen (fun t => (t.result, t.word 0x3FC#32, t.word 0x3F8#32)) 0x1000003FC0000ABCD#66 State.reset =
      some (some .ok, 0xABCD#32, 0#32) := by decide +kernel
/-- V24. -/
theorem test_wr_invalid :
    seen (fun t => (t.result, { t with result := none })) 0x10000040000000001#66 blanking =
      some (some (.error .invalidAddress), blanking) := by decide +kernel

/-! ### One step: host reads (V3, V5, V8, V11 to V15, V17, V20, V22) -/

/-- A state with a different value in every named register. -/
def filled : State :=
  namedRegs.foldl (fun s r => s.setReg r (regOffset r + 1#32)) { State.reset with status := .blanking }

theorem test_rd_enable : seen State.result 0x00000000000000000#66 filled =
    some (some (.data 0x01#32)) := by decide +kernel
theorem test_rd_out_addr_lo_0 : seen State.result 0x00000000800000000#66 filled =
    some (some (.data 0x09#32)) := by decide +kernel
theorem test_rd_out_addr_hi_0 : seen State.result 0x00000000C00000000#66 filled =
    some (some (.data 0x0D#32)) := by decide +kernel
theorem test_rd_out_addr_lo_1 : seen State.result 0x00000001000000000#66 filled =
    some (some (.data 0x11#32)) := by decide +kernel
theorem test_rd_out_addr_hi_1 : seen State.result 0x00000001400000000#66 filled =
    some (some (.data 0x15#32)) := by decide +kernel
theorem test_rd_out_format : seen State.result 0x00000001800000000#66 filled =
    some (some (.data 0x19#32)) := by decide +kernel
theorem test_rd_out_width : seen State.result 0x00000001C00000000#66 filled =
    some (some (.data 0x1D#32)) := by decide +kernel
theorem test_rd_out_height : seen State.result 0x00000002000000000#66 filled =
    some (some (.data 0x21#32)) := by decide +kernel
/-- The live status, not the bank word 0x25. -/
theorem test_rd_out_status : seen State.result 0x00000002400000000#66 filled =
    some (some (.data 2#32)) := by decide +kernel
theorem test_rd_vvalid_duration : seen State.result 0x00000002800000000#66 filled =
    some (some (.data 0x29#32)) := by decide +kernel
theorem test_rd_vblank_duration : seen State.result 0x00000002C00000000#66 filled =
    some (some (.data 0x2D#32)) := by decide +kernel
theorem test_rd_irq_reg : seen (fun t => (t.result, t.word 0x30#32)) 0x00000003000000000#66 filled =
    some (some (.data 0x31#32), 0x31#32) := by decide +kernel
theorem test_rd_unnamed : seen State.result 0x00000003400000000#66 filled =
    some (some (.data 0#32)) := by decide +kernel
theorem test_rd_invalid : seen State.result 0x0000003FF00000000#66 filled =
    some (some (.error .invalidAddress)) := by decide +kernel

/-! ### One step: timer events (V50, V51, V53, V55, V59 to V61, V82) -/

theorem test_ev_frame_start :
    seen (fun t => ((t.status, t.word 0x30#32, t.irqTrace), t.fe, t.memRead 0 0x100F, t.memRead 0 0x1010))
      0x20000000000000000#66 blanking =
      some ((.frameValid, 1#32, [1#32]), ⟨true, true, 3000500⟩, some 0xDE#8, none) := by decide +kernel
theorem test_ev_frame_start_stop :
    seen (fun t => ((t.status, t.cache, t.stopRequested), t.fs.pending, t.irqTrace, t.memRead 0 0x1000))
      0x20000000000000000#66 stopBlanking =
      some ((.idle, none, false), false, [], none) := by decide +kernel
theorem test_ev_frame_end :
    seen (fun t => (t.status, t.word 0x30#32, t.irqTrace, t.fs, t.fe.pending))
      0x20000000100000000#66 frame =
      some (.blanking, 3#32, [1#32, 3#32], ⟨true, true, 4000500⟩, false) := by decide +kernel
theorem test_ev_frame_end_stop :
    seen (fun t => ((t.status, t.cache, t.fe.pending), t.word 0x30#32, t.irqLine, t.irqTrace))
      0x20000000100000000#66 stopFrame =
      some ((.idle, none, false), 1#32, 1#32, [1#32]) := by decide +kernel

/-! ### One step: internal operations (V29 to V38, V43, V45, V64 to V68, V80 to V85) -/

theorem test_int_register_write :
    left (fun t => (t.result, t.word 0x1C#32)) (.intRegisterWrite 0x1C#32 4#32) State.reset =
      some (some .ok, 4#32) := by decide +kernel
theorem test_int_register_read :
    left State.result (.intRegisterRead 0x2C#32) ready = some (some (.data 1000#32)) := by
  decide +kernel
theorem test_int_handler_write :
    left (fun t => (t.result, t.word 0x28#32)) (.intHandlerWrite 0x28#32 5#32) ready =
      some (some .ok, 2000#32) := by decide +kernel
theorem test_int_handler_read :
    left State.result (.intHandlerRead 0x24#32) blanking = some (some (.data 2#32)) ∧
    left State.result (.intHandlerRead 0x28#32) blanking = some (some .declined) := by decide +kernel
theorem test_int_validate_dma_config :
    left State.result (.intValidateDmaConfig 0 1) ready = some (some .ok) ∧
    left State.result (.intValidateDmaConfig 0 0) State.reset = some (some .ok) := by decide +kernel
/-- V25, V29, V30, V31. -/
theorem test_int_validate_dma_config_errors :
    left State.result (.intValidateDmaConfig 0 1) (ready.setReg .outAddrLo0 0#32) =
      some (some (.error .invalidConfig)) ∧
    left State.result (.intValidateDmaConfig 0 2) (ready.setReg .outAddrLo1 0x2000#32) =
      some (some (.error .invalidConfig)) ∧
    left State.result (.intValidateDmaConfig 0 3) ready = some (some (.error .invalidConfig)) ∧
    left State.result (.intValidateDmaConfig 1 1) ready = some (some (.error .invalidConfig)) := by
  decide +kernel
/-- V34: a short buffer at the plane's address. -/
theorem test_int_dma_write :
    left (fun t => ((t.result, t.chanStatus 0, t.log), t.memRead 0 0x1000, t.memRead 0 0x1001))
      (.intDmaWrite 0 [0xDE#8] 1 0) ready =
      some ((some .ok, some .idle, []), some 0xDE#8, none) := by decide +kernel
/-- V36: the range passes 2^64. -/
theorem test_int_dma_write_wraps :
    left (fun t => (t.result, t.chan, t.log)) (.intDmaWrite 0 (List.replicate 16 0xDE#8) 16 0)
      ((ready.setReg .outAddrLo0 0xFFFFFFF8#32).setReg .outAddrHi0 0xFFFFFFFF#32) =
      some (some (.error .dmaFailure), ready.chan, [.dmaCopyFailed]) := by decide +kernel
/-- The example of R99, byte order along the address. -/
theorem test_int_mem_write :
    left (fun t => (t.result, t.memRead 0 0x1000, t.memRead 0 0x1001, t.memRead 0 0x1002))
      (.intMemWrite 0x1000#64 2 [0xDE#8, 0xAD#8]) ready =
      some (some .ok, some 0xDE#8, some 0xAD#8, none) := by decide +kernel
theorem test_int_mem_write_wraps :
    left (fun t => (t.result, t.chan)) (.intMemWrite 0xFFFFFFFFFFFFFFFF#64 2 [1#8, 2#8]) ready =
      some (some .fail, ready.chan) := by decide +kernel
theorem test_int_create_timers :
    left (fun t => (t.result, t.fs.created, t.fe.created)) .intCreateTimers State.reset =
      some (some .ok, true, true) := by decide +kernel
theorem test_int_alloc_cache :
    left (fun t => (t.result, t.cache, t.cacheLen)) .intAllocCache ready =
      some (some .ok, some (List.replicate 16 0xDE#8), 16) := by decide +kernel
/-- V45. -/
theorem test_int_alloc_cache_bound :
    left (fun t => (t.result, t.cache)) .intAllocCache
      { ready with params := { ready.params with maxCacheBytes := some 15 } } =
      some (some (.error .resourceExhausted), none) := by decide +kernel
theorem test_int_release_cache :
    left (fun t => (t.result, t.cache, t.cacheLen)) .intReleaseCache blanking =
      some (none, none, 0) := by decide +kernel
/-- V64. -/
theorem test_int_arm :
    left (fun t => (t.fs, t.fe.pending)) (.intArm .fs 0xFFFFFFFF#32) State.reset =
      some (⟨false, true, 4294967295000⟩, false) := by decide +kernel
/-- V65: no wrap at 64 bits. -/
theorem test_int_arm_no_wrap :
    left (fun t => t.fe.deadline) (.intArm .fe 1#32) { State.reset with now := 18446744073709551615 } =
      some 18446744073709552615 := by decide +kernel
theorem test_int_set_irq :
    left (fun t => (t.irqLine, t.irqTrace, t.word 0x30#32)) (.intSetIrq 1#32) State.reset =
      some (1#32, [1#32], 0#32) := by decide +kernel
/-- V82: delivered again although unchanged. -/
theorem test_int_raise_flag :
    left (fun t => (t.word 0x30#32, t.irqLine, t.irqTrace)) (.intRaiseFlag 1#32)
      (State.reset.setReg .irqReg 3#32) = some (3#32, 3#32, [3#32]) := by decide +kernel
/-- V85: reserved bits ride along. -/
theorem test_int_raise_flag_reserved :
    left (fun t => (t.word 0x30#32, t.irqLine)) (.intRaiseFlag 1#32)
      (State.reset.setReg .irqReg 0xFFFFFFF8#32) = some (0xFFFFFFF9#32, 0xFFFFFFF9#32) := by
  decide +kernel

/-- V67, V68, V69: the size of a frame does not wrap, and an address is its two words. -/
theorem test_arithmetic :
    frameSize 0xFFFFFFFF#32 0xFFFFFFFF#32 1 = 18446744065119617025 ∧
    frameSize 65536#32 65536#32 1 = 4294967296 ∧
    planeAddress 0xFFFFFFFF#32 0xFFFFFFFF#32 = 0xFFFFFFFFFFFFFFFF#64 := by decide

/-! ### Witnesses: states and operands that meet the hypotheses of each statement that has any -/

/-- A run with the next state known. -/
def runs (o : Out) : Bool := (nextOf o).isSome

/-- The invariants hold in a running state with a pending timer, at the last instant it may fire at. -/
theorem invariants_blanking : Invariants blanking where
  running := by decide +kernel
  cacheMatchesStatus := by unfold CacheMatchesStatus; decide +kernel
  timersMatchStatus := by unfold TimersMatchStatus; decide +kernel
  noStopInIdle := by unfold NoStopInIdle; decide +kernel
  timersCreated := by unfold TimersCreated; decide +kernel
  channelsIdle := by unfold ChannelsIdle; decide +kernel
  cacheHoldsSentinel := by
    rintro bytes h
    obtain rfl : List.replicate 16 0xDE#8 = bytes := Option.some.inj h
    decide +kernel
  lineIsLastDelivery := by unfold LineIsLastDelivery; decide +kernel
  noTimerMissed := by
    intro t
    cases t <;> decide +kernel
  spacesCanonical := by unfold SpacesCanonical; decide +kernel

/-- The same with a stop requested. -/
theorem invariants_stopFrame : Invariants stopFrame where
  running := by decide +kernel
  cacheMatchesStatus := by unfold CacheMatchesStatus; decide +kernel
  timersMatchStatus := by unfold TimersMatchStatus; decide +kernel
  noStopInIdle := by unfold NoStopInIdle; decide +kernel
  timersCreated := by unfold TimersCreated; decide +kernel
  channelsIdle := by unfold ChannelsIdle; decide +kernel
  cacheHoldsSentinel := by
    rintro bytes h
    obtain rfl : List.replicate 16 0xDE#8 = bytes := Option.some.inj h
    decide +kernel
  lineIsLastDelivery := by unfold LineIsLastDelivery; decide +kernel
  noTimerMissed := by
    intro t
    cases t <;> decide +kernel
  spacesCanonical := by unfold SpacesCanonical; decide +kernel

/-- And in a configured Idle device about to be enabled. -/
theorem invariants_ready : Invariants (present 0x10000000000000001#66 ready) where
  running := by decide +kernel
  cacheMatchesStatus := by unfold CacheMatchesStatus; decide +kernel
  timersMatchStatus := by unfold TimersMatchStatus; decide +kernel
  noStopInIdle := by unfold NoStopInIdle; decide +kernel
  timersCreated := by unfold TimersCreated; decide +kernel
  channelsIdle := by unfold ChannelsIdle; decide +kernel
  cacheHoldsSentinel := by
    rintro bytes h
    exact absurd (show (none : Option (List Byte)) = some bytes from h) (by simp)
  lineIsLastDelivery := by unfold LineIsLastDelivery; decide +kernel
  noTimerMissed := by
    intro t
    cases t <;> decide +kernel
  spacesCanonical := by unfold SpacesCanonical; decide +kernel

/-- A step of either state answers a next state, and so does an enable at reset. -/
theorem runs_steps : runs (step blanking) = true ∧ runs (step stopFrame) = true ∧
    runs (step (present 0x10000000000000001#66 ready)) = true := by decide +kernel

/-- A run that answers a next state answers some state. -/
theorem exists_next {o : Out} (h : runs o = true) : ∃ t, o = .next t := by
  cases o with
  | next t => exact ⟨t, rfl⟩
  | fault r => exact absurd h (by simp [runs, nextOf])
  | refused r => exact absurd h (by simp [runs, nextOf])

theorem witness_DecodeOfEncodeIsTheOperation :
    WellFormed (.wrUnnamed 0x3FC#32 0xABCD#32) = true ∧
    encode (.wrUnnamed 0x3FC#32 0xABCD#32) = some 0x1000003FC0000ABCD#66 := by decide +kernel

theorem witness_EncodeOfDecodeIsTheWord :
    decode 0x1000003FC0000ABCD#66 = .ok (.wrUnnamed 0x3FC#32 0xABCD#32) ∧
    opKind 0x1000003FC0000ABCD#66 = kindWrite := by decide +kernel

theorem witness_DecodeReadsTheWinningRow :
    decode 0x10000003000000001#66 = .ok (.wrIrqReg 1#32) ∧
    decode 0x30000000000000000#66 = .error .noSuchKind ∧
    opKind 0x00000040000000000#66 = kindRead ∧ opKind 0x1000003FC00000001#66 = kindWrite ∧
    encode .intCreateTimers = none := by decide +kernel

theorem witness_NoOperationWordsAreRefused :
    State.reset.halted = false ∧ opKind 0x30000000000000000#66 = 0b11#2 ∧
    opKind 0x20000000200000000#66 = 0b10#2 ∧ (opOffset 0x20000000200000000#66).toNat = 2 ∧
    opKind 0x2FFFFFFFF00000000#66 = 0b10#2 ∧ 2 ≤ (opOffset 0x2FFFFFFFF00000000#66).toNat := by
  decide +kernel

/-- A read presented at the very time the pending timer is due. -/
def hostAtDeadline : State :=
  { blanking with now := 700, inbox := [{ time := 1000500, word := 0x00000002400000000#66 }] }

/-- A read presented after the pending timer is due. -/
def hostAfterDeadline : State :=
  { blanking with now := 700, inbox := [{ time := 1000501, word := 0x00000002400000000#66 }] }

theorem witness_StepRunsThePresentedOperation :
    hostAtDeadline.halted = false ∧
    hostAtDeadline.inbox = { time := 1000500, word := 0x00000002400000000#66 } :: [] ∧
    decode 0x00000002400000000#66 = .ok .rdOutStatus ∧
    pendingTimer hostAtDeadline = some .fs ∧
    max hostAtDeadline.now 1000500 ≤
      max hostAtDeadline.now ((hostAtDeadline.timer .fs).deadline +
        hostAtDeadline.params.timerLateness) ∧
    runs (step hostAtDeadline) = true ∧
    runs (step (State.reset.withFetchWord 66 0x00000002400000000)) = true := by decide +kernel

theorem witness_PendingTimerFires :
    hostAfterDeadline.halted = false ∧ pendingTimer hostAfterDeadline = some .fs ∧
    max hostAfterDeadline.now ((hostAfterDeadline.timer .fs).deadline +
        hostAfterDeadline.params.timerLateness) < max hostAfterDeadline.now 1000501 ∧
    runs (step hostAfterDeadline) = true ∧
    frame.halted = false ∧ pendingTimer frame = some .fe ∧ frame.inbox = [] ∧
    runs (step frame) = true := by decide +kernel

theorem witness_BlockRestsWhenHaltedOrWaiting :
    dead.halted = true ∧
    State.reset.halted = false ∧ State.reset.inbox = [] ∧ State.reset.fs.pending = false ∧
    State.reset.fe.pending = false := by decide +kernel

/-- V59, V60: not pending, and one nanosecond early. -/
theorem witness_DisabledTimerEventIsRefused :
    blanking.halted = false ∧ blanking.fe.pending = false ∧
    refusalOf (exec .evFrameEnd blanking) = some (.timerNotPending .fe) ∧
    frame.halted = false ∧ frame.fs.pending = false ∧
    ({ blanking with now := 1000499 } : State).fs.pending = true ∧ 1000499 < blanking.fs.deadline ∧
    refusalOf (exec .evFrameStart { blanking with now := 1000499 }) = some (.timerNotDue .fs) ∧
    ({ frame with now := 3000499 } : State).fe.pending = true ∧ 3000499 < frame.fe.deadline := by
  decide +kernel

theorem witness_StepKeepsTheInvariants : ∃ t, Invariants blanking ∧ step blanking = .next t := by
  obtain ⟨t, h⟩ := exists_next runs_steps.1
  exact ⟨t, invariants_blanking, h⟩

theorem witness_SpacesStayCanonical :
    (∀ ch ∈ blanking.chan, ch.space.wf) ∧ runs (exec .evFrameStart blanking) = true ∧
    runs (exec (.intMemWrite 0xFFFFFFFFFFFFFFFF#64 1 [1#8]) blanking) = true := by decide +kernel

/-- A state in which a plain write completes; every plain write is one of these nine. -/
theorem witness_PlainWritesStoreTheirWord :
    State.reset.halted = false ∧ blanking.halted = false ∧
    runs (exec (.wrOutWidth 8#32) blanking) = true := by decide +kernel

theorem witness_StatusWriteIsInvisible :
    blanking.halted = false ∧ validOffset 0x24#32 = true ∧
    runs (exec (decodeRead 0x24#32) blanking) = true ∧ validOffset 0x3FC#32 = true ∧
    runs (exec (decodeRead 0x3FC#32) blanking) = true := by decide +kernel

theorem witness_UnnamedWordsAreStorage :
    unnamedOffset 0x04#32 = true ∧ unnamedOffset 0x34#32 = true ∧ unnamedOffset 0x3FC#32 = true ∧
    State.reset.halted = false := by decide +kernel

theorem witness_InvalidAccessChangesNothing :
    0x400 ≤ (0x400#32).toNat ∧ (0x3FF#32).toNat % 4 ≠ 0 ∧ (0x02#32).toNat % 4 ≠ 0 ∧
    0x400 ≤ (0xFFFFFFFC#32).toNat ∧ blanking.halted = false := by decide +kernel

theorem witness_PlainReadsReturnTheirWord :
    blanking.halted = false ∧ runs (exec .rdVvalidDuration blanking) = true ∧
    runs (exec .rdOutAddrLo0 blanking) = true := by decide +kernel

theorem witness_ConfigurationReadsReturnTheirWord :
    frame.halted = false ∧ runs (exec .rdIrqReg frame) = true := by decide +kernel

theorem witness_StatusReadEncodesTheStatus :
    State.reset.halted = false ∧ State.reset.status = .idle ∧ frame.halted = false ∧
    frame.status = .frameValid ∧ blanking.halted = false ∧ blanking.status = .blanking := by decide +kernel

theorem witness_WrittenWordIsReadBack :
    validOffset 0x30#32 = true ∧ (0x30#32 : Word) ≠ 0x00#32 ∧ (0x30#32 : Word) ≠ 0x24#32 ∧
    validOffset 0x3FC#32 = true ∧ validOffset 0x24#32 = true ∧ (0x24#32 : Word) ≠ 0x30#32 ∧
    frame.halted = false ∧ runs (exec (decodeRead 0x24#32) frame) = true := by decide +kernel

/-- A word that stays, one that a host write changes, and `IRQ_REG` in a timer event. -/
theorem witness_BankWordsChangeOnlyAsStated :
    decode 0x10000001C00000008#66 = .ok (.wrOutWidth 8#32) ∧
    left (fun t => (t.word 0x1C#32, t.word 0x20#32)) (.wrOutWidth 8#32) ready =
      some (8#32, ready.word 0x20#32) ∧
    decode 0x20000000000000000#66 = .ok .evFrameStart ∧
    left (fun t => t.word 0x30#32) .evFrameStart blanking = some 1#32 ∧
    blanking.word 0x30#32 = 0#32 ∧ validOffset 0x30#32 = true := by decide +kernel

/-- One failed access of each kind that reaches the host. -/
theorem witness_FailedAccessLeavesTheState :
    left State.result (.wrInvalid 0x400#32 0#32) ready = some (some (.error .invalidAddress)) ∧
    left State.result (.wrEnableOn 1#32) blanking = some (some (.error .invalidState)) ∧
    left State.result (.wrEnableOn 1#32) State.reset = some (some (.error .invalidConfig)) ∧
    left State.result (.wrEnableOn 1#32)
      { ready with params := { ready.params with timerCreateOk := false } } =
      some (some (.error .resourceExhausted)) ∧
    decode 0x10000000000000001#66 = .ok (.wrEnableOn 1#32) := by decide +kernel

/-- V46: the bound is exactly the size. -/
def bounded (bound : Nat) : State :=
  { ready with params := { ready.params with maxCacheBytes := some bound, allocRefused := [17] } }

theorem ready_planeReady : PlaneReady ready ∧ TimersReady ready := by
  unfold PlaneReady TimersReady
  decide +kernel

theorem witness_EnableStartsGeneration :
    (bounded 16).halted = false ∧ (1#32 : Word) ≠ 0#32 ∧ (bounded 16).status = .idle ∧
    (bounded 16).cache = none ∧ PlaneReady (bounded 16) ∧ TimersReady (bounded 16) ∧
    (bounded 16).word 0x18#32 = 0#32 ∧
    16 = ((bounded 16).word 0x1C#32).toNat * ((bounded 16).word 0x20#32).toNat ∧
    (∀ bound, (bounded 16).params.maxCacheBytes = some bound → 16 ≤ bound) ∧
    16 ∉ (bounded 16).params.allocRefused := by
  refine ⟨by decide +kernel, by decide +kernel, by decide +kernel, by decide +kernel, ?_, ?_, by decide +kernel, by decide +kernel, ?_, by decide +kernel⟩
  · unfold PlaneReady
    decide +kernel
  · unfold TimersReady
    decide +kernel
  · rintro bound h
    obtain rfl : 16 = bound := Option.some.inj h
    decide +kernel

/-- V39, S12, V42, the hand-made state of error 5, V43 and V45. -/
theorem witness_EnableErrorsComeInOrder :
    ready.halted = false ∧ (1#32 : Word) ≠ 0#32 ∧ 0 < ready.chan.length ∧
    (blanking.status ≠ .idle) ∧
    (State.reset.status = .idle ∧ State.reset.cache = none ∧ ¬ PlaneReady State.reset) ∧
    (PlaneReady { ready with params := { ready.params with timerCreateOk := false } } ∧
      ¬ TimersReady { ready with params := { ready.params with timerCreateOk := false } }) ∧
    (({ blanking with status := .idle } : State).cache.isSome = true ∧ blanking.cacheLen ≠ 0 ∧
      blanking.word 0x08#32 ≠ 0#32 ∧ TimersReady { blanking with status := .idle }) ∧
    (PlaneReady (ready.setReg .outFormat 99#32) ∧ TimersReady (ready.setReg .outFormat 99#32) ∧
      (ready.setReg .outFormat 99#32).word 0x18#32 ≠ 0#32) ∧
    (PlaneReady (bounded 15) ∧ TimersReady (bounded 15) ∧ (bounded 15).word 0x18#32 = 0#32 ∧
      (bounded 15).params.maxCacheBytes = some 15 ∧
      15 < ((bounded 15).word 0x1C#32).toNat * ((bounded 15).word 0x20#32).toNat) := by
  unfold PlaneReady TimersReady
  decide +kernel

/-- The first reserved selector and the last. -/
theorem witness_OnlyFormatZeroIsSupported :
    (1#32 : Word) ≠ 0#32 ∧ (0xFFFFFFFF#32 : Word) ≠ 0#32 ∧
    PlaneReady (ready.setReg .outFormat 1#32) ∧ TimersReady (ready.setReg .outFormat 1#32) ∧
    (ready.setReg .outFormat 1#32).halted = false ∧
    (ready.setReg .outFormat 1#32).status = .idle ∧ (ready.setReg .outFormat 1#32).cache = none ∧
    (ready.setReg .outFormat 1#32).word 0x18#32 = 1#32 := by
  unfold PlaneReady TimersReady
  decide +kernel

theorem witness_DisableRequestsAStop :
    ready.halted = false ∧ ready.status = .idle ∧ frame.halted = false ∧ frame.status ≠ .idle := by
  decide +kernel

theorem witness_EarlyEnableDoesNotCancelTheStop :
    stopBlanking.halted = false ∧ (1#32 : Word) ≠ 0#32 ∧ stopBlanking.status = .blanking ∧
    stopBlanking.stopRequested = true ∧ stopBlanking.fs.pending = true ∧
    stopBlanking.fs.deadline ≤ stopBlanking.now ∧
    stopFrame.halted = false ∧ stopFrame.status = .frameValid ∧ stopFrame.stopRequested = true ∧
    stopFrame.fe.pending = true ∧ stopFrame.fe.deadline ≤ stopFrame.now := by decide +kernel

theorem witness_FrameStartEntersFrameValid :
    blanking.halted = false ∧ blanking.fs.pending = true ∧ blanking.fs.deadline ≤ blanking.now ∧
    blanking.status = .blanking ∧ blanking.stopRequested = false := by decide +kernel

/-- The frame ends exactly at 2^64 (V37), and passes it (V36). -/
def highFrame (lo : Word) : State :=
  (blanking.setReg .outAddrLo0 lo).setReg .outAddrHi0 0xFFFFFFFF#32

theorem witness_FrameStartWritesTheFrame :
    (highFrame 0xFFFFFFF0#32).halted = false ∧ (highFrame 0xFFFFFFF0#32).fs.pending = true ∧
    (highFrame 0xFFFFFFF0#32).fs.deadline ≤ (highFrame 0xFFFFFFF0#32).now ∧
    (highFrame 0xFFFFFFF0#32).status = .blanking ∧
    (highFrame 0xFFFFFFF0#32).stopRequested = false ∧ 0 < (highFrame 0xFFFFFFF0#32).chan.length ∧
    (highFrame 0xFFFFFFF0#32).cache = some (List.replicate 16 0xDE#8) ∧
    (highFrame 0xFFFFFFF0#32).cacheLen = (List.replicate 16 0xDE#8).length ∧
    (planeAddress ((highFrame 0xFFFFFFF0#32).word 0x0C#32)
      ((highFrame 0xFFFFFFF0#32).word 0x08#32)).toNat + 16 = 2 ^ 64 ∧
    memAnswer (highFrame 0xFFFFFFF0#32) = true ∧
    memAnswer { highFrame 0xFFFFFFF0#32 with memAnswers := [false] } = false ∧
    2 ^ 64 < (planeAddress ((highFrame 0xFFFFFFF1#32).word 0x0C#32)
      ((highFrame 0xFFFFFFF1#32).word 0x08#32)).toNat + 16 := by decide +kernel

theorem witness_FrameEndEntersBlanking :
    frame.halted = false ∧ frame.fe.pending = true ∧ frame.fe.deadline ≤ frame.now ∧
    frame.status = .frameValid ∧ frame.stopRequested = false := by decide +kernel

theorem witness_TimerBoundaryTakesTheStop :
    stopBlanking.halted = false ∧ stopBlanking.stopRequested = true ∧
    stopBlanking.status = .blanking ∧ stopBlanking.fs.pending = true ∧
    stopBlanking.fs.deadline ≤ stopBlanking.now ∧
    stopFrame.halted = false ∧ stopFrame.stopRequested = true ∧ stopFrame.status = .frameValid ∧
    stopFrame.fe.pending = true ∧ stopFrame.fe.deadline ≤ stopFrame.now := by decide +kernel

/-- V61 and its mirror image, hand-made, and an invariant state that steps. -/
theorem witness_UnexpectedTimerEventHalts :
    (({ blanking with status := .frameValid } : State).halted = false ∧
      blanking.fs.pending = true ∧ blanking.fs.deadline ≤ blanking.now ∧
      ({ blanking with status := .frameValid } : State).status ≠ .blanking) ∧
    (({ frame with status := .idle } : State).halted = false ∧ frame.fe.pending = true ∧
      frame.fe.deadline ≤ frame.now ∧ ({ frame with status := .idle } : State).status ≠ .frameValid) ∧
    ∃ t, Invariants stopFrame ∧ step stopFrame = .next t := by
  obtain ⟨t, h⟩ := exists_next runs_steps.2.1
  exact ⟨by decide +kernel, by decide +kernel, t, invariants_stopFrame, h⟩

theorem witness_UndisturbedRunKeepsTheTiming :
    Invariants blanking ∧ RunsUndisturbed blanking ∧ blanking.status = .blanking ∧
    1000 = (blanking.word 0x2C#32).toNat ∧ 2000 = (blanking.word 0x28#32).toNat ∧
    blanking.fs.deadline = 500 + 1000 * 1000 := by
  refine ⟨invariants_blanking, ?_, by decide +kernel⟩
  unfold RunsUndisturbed
  decide +kernel

theorem witness_SetIrqDrivesTheLine : State.reset.halted = false ∧ (0x1#32 : Word) ≠ 0#32 := by decide +kernel

theorem witness_RaiseFlagDeliversTheWord : frame.halted = false := by decide +kernel

/-- V71 and V79 forward, V73 and V78 do not. -/
theorem witness_IrqWriteReplacesAndForwards :
    frame.halted = false ∧ (frame.word 0x30#32).getLsbD 0 ≠ (0x0#32).getLsbD 0 ∧
    (frame.word 0x30#32).getLsbD 1 ≠ (0xFFFFFFFF#32).getLsbD 1 ∧
    ((frame.word 0x30#32).getLsbD 0 = (0x5#32).getLsbD 0 ∧
      (frame.word 0x30#32).getLsbD 1 = (0x5#32).getLsbD 1) := by decide +kernel

theorem witness_FlagsAreClearedOnlyByTheHost :
    decode 0x20000000100000000#66 = .ok .evFrameEnd ∧ (∀ v, Instr.evFrameEnd ≠ .wrIrqReg v) ∧
    left (fun t => t.word 0x30#32) .evFrameEnd frame = some 3#32 ∧
    decode 0x10000003000000000#66 = .ok (.wrIrqReg 0#32) ∧
    left (fun t => (t.word 0x30#32, t.irqLine)) (.wrIrqReg 0#32) frame = some (0#32, 0#32) := by
  exact ⟨by decide +kernel, by intro v; simp, by decide +kernel, by decide +kernel, by decide +kernel⟩

theorem witness_OtherOperationsLeaveTheInterruptState :
    decode 0x10000000000000000#66 = .ok .wrEnableOff ∧ (∀ v, Instr.wrEnableOff ≠ .wrIrqReg v) ∧
    runs (exec .wrEnableOff frame) = true ∧
    decode 0x20000000000000000#66 = .ok .evFrameStart ∧ stopBlanking.stopRequested = true ∧
    runs (exec .evFrameStart stopBlanking) = true ∧
    decode 0x20000000100000000#66 = .ok .evFrameEnd ∧
    ({ frame with status := .idle } : State).status ≠ .frameValid ∧
    runs (exec .evFrameEnd { frame with status := .idle }) = true := by
  exact ⟨by decide +kernel, by intro v; simp, by decide +kernel, by decide +kernel, by decide +kernel,
    by decide +kernel, by decide +kernel, by decide +kernel, by decide +kernel⟩

theorem witness_OnlyEnableAndTimersMoveTheStatus :
    ready.halted = false ∧ decode 0x10000000000000001#66 = .ok (.wrEnableOn 1#32) ∧
    left State.status (.wrEnableOn 1#32) ready = some .blanking ∧ ready.status = .idle := by
  decide +kernel

/-- A step along each line of the figure. -/
theorem witness_StatusFollowsTheFigure :
    seen State.status 0x10000000000000001#66 ready = some .blanking ∧
    (nextOf (step blanking)).map State.status = some .frameValid ∧
    (nextOf (step frame)).map State.status = some .blanking ∧
    (nextOf (step stopBlanking)).map State.status = some .idle ∧
    (nextOf (step stopFrame)).map State.status = some .idle ∧
    (nextOf (step State.reset)).map State.status = some .idle := by decide +kernel

theorem witness_CacheIsFixedWhileItExists :
    (∃ t, Invariants blanking ∧ step blanking = .next t) ∧
    (∃ t, Invariants stopFrame ∧ step stopFrame = .next t) ∧
    (∃ t, Invariants (present 0x10000000000000001#66 ready) ∧
      step (present 0x10000000000000001#66 ready) = .next t) := by
  obtain ⟨t1, h1⟩ := exists_next runs_steps.1
  obtain ⟨t2, h2⟩ := exists_next runs_steps.2.1
  obtain ⟨t3, h3⟩ := exists_next runs_steps.2.2
  exact ⟨⟨t1, invariants_blanking, h1⟩, ⟨t2, invariants_stopFrame, h2⟩, t3, invariants_ready, h3⟩

theorem witness_ReleaseRemovesTheCache :
    blanking.halted = false ∧ ready.halted = false ∧ ready.cache = none ∧ ready.cacheLen = 0 ∧
    decode 0x20000000000000000#66 = .ok .evFrameStart ∧ stopBlanking.cache.isSome = true ∧
    left State.cache .evFrameStart stopBlanking = some none := by decide +kernel

theorem witness_PendingTimerKeepsItsDeadline :
    ∃ t, Invariants blanking ∧ step blanking = .next t ∧ (blanking.timer .fs).pending = true := by
  obtain ⟨t, h⟩ := exists_next runs_steps.1
  exact ⟨t, invariants_blanking, h, by decide +kernel⟩

theorem witness_ClockNeverRunsBack :
    (nextOf (step hostAtDeadline)).map State.now = some 1000500 ∧ hostAtDeadline.now = 700 := by
  decide +kernel

theorem witness_OperationsLeaveTheEnvironment :
    runs (exec (.wrEnableOn 1#32) ready) = true ∧
    runs (exec (.intDmaWrite 0 [0xDE#8] 1 0) ready) = true := by decide +kernel

theorem witness_OnlyFrameStartWritesMemory :
    decode 0x20000000000000000#66 = .ok .evFrameStart ∧ runs (exec .evFrameStart blanking) = true ∧
    (planeAddress (blanking.word 0x0C#32) (blanking.word 0x08#32)).toNat + blanking.cacheLen ≤ 0x1010 ∧
    0xFFF < (planeAddress (blanking.word 0x0C#32) (blanking.word 0x08#32)).toNat := by decide +kernel

/-- The same block before a `MemWrite` that fails. -/
theorem witness_DmaResultDoesNotReachTheBlock :
    blockView blanking = blockView { blanking with memAnswers := [false], draws := 5 } ∧
    runs (step blanking) = true := by decide +kernel

theorem witness_FrameworkFunnelsTheHostAccesses :
    ready.halted = false ∧ validOffset 0x1C#32 = true ∧ (0x1C#32 : Word) ≠ 0x00#32 ∧
    (0x1C#32 : Word) ≠ 0x30#32 ∧ validOffset 0x30#32 = true ∧ (0x30#32 : Word) ≠ 0x24#32 := by decide +kernel

theorem witness_HandlersSpecialCaseThreeOffsets :
    ready.halted = false ∧ (0x24#32 : Word) ≠ 0x00#32 ∧ (0x24#32 : Word) ≠ 0x30#32 ∧
    left State.result (.intHandlerWrite 0x00#32 1#32) ready = some (some .ok) ∧
    left State.result (.intHandlerWrite 0x00#32 1#32) blanking =
      some (some (.error .invalidState)) ∧
    (0x30#32 : Word) ≠ 0x24#32 := by decide +kernel

/-- V26, V31 and V29. -/
theorem witness_ValidateDmaConfigAnswersAsStated :
    ready.halted = false ∧ (0 < ready.chan.length ∧ 1 ≤ 2 ∧
      ∀ p < 1, planeAddr 0 p ready ≠ 0#64 ∧ planeLen 0 p ready ≠ 0) ∧
    ¬ (1 < ready.chan.length) ∧ ¬ (3 ≤ 2) ∧ planeLen 0 1 ready = 0 ∧
    ready.cache = none ∧ blanking.cache.isSome = true := by decide +kernel

/-- V34, V35, V36, and the two ways to be out of range. -/
theorem witness_DmaWriteCopiesTheBuffer :
    ready.halted = false ∧ 1 ≤ [0xDE#8, 0xAD#8].length ∧ 0x1000 = (planeAddr 0 0 ready).toNat ∧
    0 < ready.chan.length ∧ (0 < 2) ∧ 0x1000 + 1 ≤ 2 ^ 64 ∧ memAnswer ready = true ∧
    memAnswer { ready with memAnswers := [false] } = false ∧
    2 ^ 64 < (planeAddr 0 0 (highFrame 0xFFFFFFFF#32)).toNat + 2 ∧
    ready.chan.length ≤ 1 ∧ 2 ≤ 2 := by decide +kernel

theorem witness_MemWriteAnswersAsTheEnvironment :
    ready.halted = false ∧ 0 < ready.chan.length ∧
    (0xFFFFFFFFFFFFFFFF#64).toNat + [1#8].length ≤ 2 ^ 64 ∧ memAnswer ready = true ∧
    memAnswer { ready with memAnswers := [false] } = false ∧
    2 ^ 64 < (0xFFFFFFFFFFFFFFFF#64).toNat + [1#8, 2#8].length := by decide +kernel

theorem witness_CreateTimersMakesTheHandles :
    ready.halted = false ∧ TimersReady ready ∧
    ¬ TimersReady { ready with params := { ready.params with timerCreateOk := false } } := by
  unfold TimersReady
  decide +kernel

theorem witness_AllocCacheFillsTheCache :
    ready.halted = false ∧ 16 = (ready.word 0x1C#32).toNat * (ready.word 0x20#32).toNat ∧
    blanking.cache.isSome = true ∧
    ((ready.setReg .outFormat 99#32).cache = none ∧
      (ready.setReg .outFormat 99#32).word 0x18#32 ≠ 0#32) ∧
    (ready.cache = none ∧ ready.word 0x18#32 = 0#32 ∧ ready.params.maxCacheBytes = none ∧
      16 ∉ ready.params.allocRefused) ∧
    ((bounded 15).params.maxCacheBytes = some 15 ∧ 15 < 16) := by decide +kernel

theorem witness_ArmSetsTheDeadline : State.reset.halted = false := by decide +kernel

/-- Six distinct negative codes. -/
def sampleCodes : Config.ErrCodes where
  code
    | .invalidAddress => -1
    | .invalidState => -2
    | .invalidConfig => -3
    | .resourceExhausted => -4
    | .dmaFailure => -5
    | .consistencyViolation => -6
  code_neg := by
    intro k
    cases k <;> decide +kernel
  code_injective := by
    intro j k h
    cases j <;> cases k <;> first | rfl | exact absurd h (by decide +kernel)

theorem witness_ResultCodesAreNegativeErrors :
    resultCode sampleCodes .ok = some 0 ∧
    resultCode sampleCodes (.error .invalidState) = some (-2) := by decide +kernel

end Sys2Proof.Tests
end

section
/-! The family "encoding": the winning row of an operation word (`spec/30_encoding.md` R53, R60),
the status encoding (R55) and the plane addresses (R56). -/

namespace Sys2Proof

open Sys2Proof.Machine

/-! ### The rows of the table: facts checked row by row -/

/-- The kind bits of a row's pattern. -/
def Row.kind (r : Row) : BitVec 2 := r.pattern.extractLsb' 32 2

/-- The offset bits of a row's pattern. -/
def Row.offset (r : Row) : Word := r.pattern.extractLsb' 0 32

/-- The offset bits of a row's mask. -/
def Row.offsetMask (r : Row) : Word := r.mask.extractLsb' 0 32

/-- What tells the rows of the table apart, besides their mnemonics. -/
def Row.key (r : Row) : BitVec 34 × BitVec 34 × DataCond := (r.pattern, r.mask, r.cond)

theorem keys_nodup : (opcodeRows.map Row.key).Nodup := by decide +kernel

theorem row_priority : ∀ r ∈ opcodeRows, r.priority = 0 ∨ r.priority = 1 ∨ r.priority = 2 := by
  decide +kernel

/-- Every row compares both bits of the kind. -/
theorem row_kindMask : ∀ r ∈ opcodeRows, r.mask.extractLsb' 32 2 = BitVec.allOnes 2 := by
  decide +kernel

/-- A row is that of a host access or that of one of the two timer events. -/
theorem row_kind_cases : ∀ r ∈ opcodeRows, r.kind = kindRead ∨ r.kind = kindWrite ∨
    (r.kind = kindEvent ∧ r.offsetMask = BitVec.allOnes 32 ∧
      (r.offset = timerCode .fs ∨ r.offset = timerCode .fe)) := by
  decide +kernel

/-- The rows of a kind of host access, by priority: a named register, an admitted offset, any
offset. -/
theorem hostRow_cases : ∀ r ∈ opcodeRows, r.kind = kindRead ∨ r.kind = kindWrite →
    (r.priority = 0 ∧ r.offsetMask = BitVec.allOnes 32 ∧ (regAt r.offset).isSome = true) ∨
    (r.priority = 1 ∧ r.offsetMask = admissionMask ∧ r.offset = 0#32) ∨ r.priority = 2 := by
  decide +kernel

/-- Two rows of one priority whose patterns agree on the bits both compare are one row, or divide
the words by whether `wdata` is 0. -/
theorem row_overlap : ∀ r ∈ opcodeRows, ∀ r' ∈ opcodeRows, r.priority = r'.priority →
    r.pattern &&& r'.mask = r'.pattern &&& r.mask →
    r.key = r'.key ∨ (r.cond = .zero ∧ r'.cond = .nonzero) ∨
      (r.cond = .nonzero ∧ r'.cond = .zero) := by
  decide +kernel

/-! ### The rows a word selects -/

@[simp] theorem DataCond.holds_any (v : Word) : DataCond.any.holds v = true := rfl

@[simp] theorem DataCond.holds_zero (v : Word) : DataCond.zero.holds v = true ↔ v = 0#32 := by
  simp [DataCond.holds]

@[simp] theorem DataCond.holds_nonzero (v : Word) : DataCond.nonzero.holds v = true ↔ v ≠ 0#32 := by
  simp [DataCond.holds]

/-- What a row of the table compares of a word it selects. -/
theorem fields_of_selects {w : OpWord} {r : Row} (mem : r ∈ opcodeRows) (sel : r.selects w = true) :
    opKind w = r.kind ∧ opOffset w &&& r.offsetMask = r.offset := by
  obtain ⟨⟨kind, offset⟩, -⟩ := (selects_iff r w).1 sel
  rw [row_kindMask r mem, BitVec.and_allOnes] at kind
  exact ⟨kind, offset⟩

/-- Every word of a host access denotes an operation. -/
theorem decode_of_host {w : OpWord} (host : opKind w = kindRead ∨ opKind w = kindWrite) :
    ∃ i, decode w = .ok i := by
  rcases host with read | write
  · exact ⟨_, if_pos read⟩
  · exact ⟨decodeWrite (opOffset w) (opData w), by simp [decode, write, kindRead, kindWrite]⟩

/-- A word that selects a row denotes an operation. -/
theorem decode_of_selects {w : OpWord} {r : Row} (mem : r ∈ opcodeRows) (sel : r.selects w = true) :
    ∃ i, decode w = .ok i := by
  obtain ⟨kind, offset⟩ := fields_of_selects mem sel
  rcases row_kind_cases r mem with read | write | ⟨event, mask, id⟩
  · exact decode_of_host (.inl (kind.trans read))
  · exact decode_of_host (.inr (kind.trans write))
  · rw [mask, BitVec.and_allOnes] at offset
    rcases id with id | id
    · exact ⟨.evFrameStart, by
        simp [decode, decodeEvent, kind, event, offset, id, kindRead, kindWrite, kindEvent]⟩
    · exact ⟨.evFrameEnd, by
        simp [decode, decodeEvent, kind, event, offset, id, kindRead, kindWrite, kindEvent,
          timerCode]⟩

/-- Rows of one priority do not both match a word: the selection of R53 is a function. -/
theorem selected_unique {w : OpWord} {r r' : Row} (mem : r ∈ opcodeRows) (mem' : r' ∈ opcodeRows)
    (sel : r.selects w = true) (sel' : r'.selects w = true) (same : r.priority = r'.priority) :
    r = r' := by
  simp only [Row.selects, Bool.and_eq_true, beq_iff_eq] at sel sel'
  obtain ⟨hit, data⟩ := sel
  obtain ⟨hit', data'⟩ := sel'
  have agree : r.pattern &&& r'.mask = r'.pattern &&& r.mask := by
    rw [← hit, ← hit', BitVec.and_assoc, BitVec.and_assoc, BitVec.and_comm r.mask]
  rcases row_overlap r mem r' mem' same agree with key | ⟨zero, nonzero⟩ | ⟨nonzero, zero⟩
  · exact List.inj_on_of_nodup_map keys_nodup mem mem' key
  · rw [zero, DataCond.holds_zero] at data
    rw [nonzero, DataCond.holds_nonzero] at data'
    exact absurd data data'
  · rw [nonzero, DataCond.holds_nonzero] at data
    rw [zero, DataCond.holds_zero] at data'
    exact absurd data' data

/-! ### The winning row -/

/-- A row of the table wins for a word: the word selects it, and no row of a smaller priority number
(R53). -/
structure Wins (w : OpWord) (r : Row) : Prop where
  mem : r ∈ opcodeRows
  selects : r.selects w = true
  least : ∀ r' ∈ opcodeRows, r'.selects w = true → r.priority ≤ r'.priority

/-- Every other selected row has a greater priority number. -/
theorem Wins.unique {w : OpWord} {r r' : Row} (win : Wins w r) (mem' : r' ∈ opcodeRows)
    (sel' : r'.selects w = true) (le : r'.priority ≤ r.priority) : r' = r :=
  selected_unique mem' win.mem sel' win.selects (le_antisymm le (win.least r' mem' sel'))

/-- A winner is the only selected row of its priority or a smaller number. -/
theorem Wins.filter_eq {w : OpWord} {r : Row} (win : Wins w r) :
    (opcodeRows.filter fun r' => r'.selects w && decide (r'.priority ≤ r.priority)) = [r] := by
  have rows_nodup : opcodeRows.Nodup := List.Nodup.of_map Row.key keys_nodup
  refine List.perm_singleton.1 ((List.perm_ext_iff_of_nodup (rows_nodup.filter _)
    (List.nodup_singleton r)).2 fun r' => ?_)
  simp only [List.mem_filter, Bool.and_eq_true, decide_eq_true_eq, List.mem_singleton]
  constructor
  · rintro ⟨mem', sel', le⟩
    exact win.unique mem' sel' le
  · rintro rfl
    exact ⟨win.mem, win.selects, le_rfl⟩

/-- Among the rows of a priority up to the winner's, the search finds the winner or nothing. -/
theorem Wins.find_eq {w : OpWord} {r : Row} (win : Wins w r) {p : Nat} (le : p ≤ r.priority) :
    (opcodeRows.find? fun r' => r'.priority == p && r'.selects w) =
      if r.priority = p then some r else none := by
  cases found : opcodeRows.find? fun r' => r'.priority == p && r'.selects w with
  | none =>
    have absent := List.find?_eq_none.1 found r win.mem
    simp only [win.selects, Bool.and_true, beq_iff_eq] at absent
    rw [if_neg absent]
  | some r' =>
    have hit := List.find?_some found
    simp only [Bool.and_eq_true, beq_iff_eq] at hit
    obtain ⟨prio, sel'⟩ := hit
    obtain rfl := win.unique (List.mem_of_find?_eq_some found) sel' (prio.trans_le le)
    rw [if_pos prio]

/-- The search of `winningRow` finds the winner. -/
theorem Wins.winningRow_eq {w : OpWord} {r : Row} (win : Wins w r) : winningRow w = some r := by
  have zero := win.find_eq (Nat.zero_le _)
  rcases row_priority r win.mem with prio | prio | prio
  · simp [winningRow, zero, prio]
  · have one := win.find_eq (p := 1) prio.ge
    simp [winningRow, zero, one, prio]
  · have one := win.find_eq (p := 1) (by omega)
    have two := win.find_eq (p := 2) prio.ge
    simp [winningRow, zero, one, two, prio]

/-- No row wins for a word that selects none. -/
theorem winningRow_eq_none {w : OpWord} (none_selected : ∀ r ∈ opcodeRows, r.selects w = false) :
    winningRow w = none := by
  have missed (p : Nat) : (opcodeRows.find? fun r => r.priority == p && r.selects w) = none :=
    List.find?_eq_none.2 fun r mem => by simp [none_selected r mem]
  simp [winningRow, missed]

/-! ### Arms of the decoder -/

theorem decodeRead_unnamed {off : Word} (valid : validOffset off = true)
    (unnamed : regAt off = none) : decodeRead off = .rdUnnamed off := by
  simp [decodeRead, valid, unnamed]

theorem decodeRead_invalid {off : Word} (invalid : ¬ validOffset off = true) :
    decodeRead off = .rdInvalid off := by
  simp [decodeRead, invalid]

theorem decodeWrite_unnamed {off : Word} (v : Word) (valid : validOffset off = true)
    (unnamed : regAt off = none) : decodeWrite off v = .wrUnnamed off v := by
  simp [decodeWrite, valid, unnamed]

theorem decodeWrite_invalid {off : Word} (v : Word) (invalid : ¬ validOffset off = true) :
    decodeWrite off v = .wrInvalid off v := by
  simp [decodeWrite, invalid]

theorem decodeWrite_enableOn {v : Word} (nonzero : v ≠ 0#32) :
    decodeWrite (regOffset .enable) v = .wrEnableOn v := by
  simp [decodeWrite, nonzero]

/-! ### The row of a host access -/

/-- The priority of the row of a host access: 0 for a named register, 1 for another admitted offset,
2 for an offset that is not admitted (R60). -/
def accessPriority (off : Word) : Nat :=
  if validOffset off then if (regAt off).isSome then 0 else 1 else 2

@[simp] theorem accessPriority_regOffset (x : RegName) : accessPriority (regOffset x) = 0 := by
  simp [accessPriority]

theorem accessPriority_unnamed {off : Word} (valid : validOffset off = true)
    (unnamed : regAt off = none) : accessPriority off = 1 := by
  simp [accessPriority, valid, unnamed]

theorem accessPriority_invalid {off : Word} (invalid : ¬ validOffset off = true) :
    accessPriority off = 2 := by
  simp [accessPriority, invalid]

theorem land_admissionMask_of_valid {off : Word} (valid : validOffset off = true) :
    off &&& admissionMask = 0#32 :=
  beq_iff_eq.1 valid

/-- A host access selects no row of a smaller priority number than its own. -/
theorem accessPriority_le {w : OpWord} {r : Row} (host : opKind w = kindRead ∨ opKind w = kindWrite)
    (mem : r ∈ opcodeRows) (sel : r.selects w = true) :
    accessPriority (opOffset w) ≤ r.priority := by
  obtain ⟨kind, offset⟩ := fields_of_selects mem sel
  rw [kind] at host
  rcases hostRow_cases r mem host with ⟨prio, mask, named⟩ | ⟨prio, mask, base⟩ | prio
  · rw [mask, BitVec.and_allOnes] at offset
    obtain ⟨x, at_x⟩ := Option.isSome_iff_exists.1 named
    rw [offset, regAt_eq_some.1 at_x, accessPriority_regOffset]
    exact Nat.zero_le _
  · have valid : validOffset (opOffset w) = true := by
      rw [validOffset, beq_iff_eq, ← mask, offset, base]
    rw [accessPriority, if_pos valid, prio]
    split <;> omega
  · rw [accessPriority, prio]
    split_ifs <;> omega

/-- The row of a host access that decodes to `i`: it matches the selector and the value, and has the
access's mnemonic and priority. -/
structure AccessRow (k : BitVec 2) (off v : Word) (i : Instr) (r : Row) : Prop where
  mem : r ∈ opcodeRows
  hit : (k ++ off : BitVec (2 + 32)) &&& r.mask = r.pattern
  data : r.cond.holds v = true
  priority : r.priority = accessPriority off
  mnemonic : r.mnemonic = mnemonicOf i

/-- The row of a host access wins for its word. -/
theorem AccessRow.wins {w : OpWord} {i : Instr} {r : Row}
    (host : opKind w = kindRead ∨ opKind w = kindWrite)
    (row : AccessRow (opKind w) (opOffset w) (opData w) i r) : Wins w r where
  mem := row.mem
  selects := by rw [Row.selects, opSelector_eq, beq_iff_eq.2 row.hit, row.data, Bool.and_true]
  least _ mem' sel' := row.priority.trans_le (accessPriority_le host mem' sel')

/-- The place of a named register in the order of the window, which is the order of the rows. -/
theorem idxOf_namedRegs_lt (x : RegName) : namedRegs.idxOf x < 12 := by cases x <;> decide

/-- The row of a read of a named register. -/
def readRow (x : RegName) : Row :=
  readRows[namedRegs.idxOf x]'(lt_trans (idxOf_namedRegs_lt x) (by decide))

/-- The row of a write of a named register; the one of `ENABLE` is that of the value 0. -/
def writeRow (x : RegName) : Row :=
  writeRows[namedRegs.idxOf x + 1]'(lt_trans (Nat.succ_lt_succ (idxOf_namedRegs_lt x)) (by decide))

theorem accessRow_readRow (x : RegName) (v : Word) :
    AccessRow kindRead (regOffset x) v (decodeRead (regOffset x)) (readRow x) where
  mem := List.mem_append_left _ (List.mem_append_right _ (List.getElem_mem _))
  hit := by cases x <;> rfl
  data := by cases x <;> rfl
  priority := by cases x <;> rfl
  mnemonic := by cases x <;> rfl

theorem accessRow_writeRow (x : RegName) (v : Word) (off_value : x = .enable → v = 0#32) :
    AccessRow kindWrite (regOffset x) v (decodeWrite (regOffset x) v) (writeRow x) where
  mem := List.mem_append_left _ (List.mem_append_left _ (List.getElem_mem _))
  hit := by cases x <;> rfl
  data := by
    cases x
    case enable => rw [off_value rfl]; rfl
    all_goals rfl
  priority := by cases x <;> rfl
  mnemonic := by
    cases x
    case enable => rw [off_value rfl]; rfl
    all_goals rfl

/-- R101: a value that is not 0 written to `ENABLE` has a row of its own. -/
theorem accessRow_enableOn {v : Word} (nonzero : v ≠ 0#32) :
    AccessRow kindWrite (regOffset .enable) v (decodeWrite (regOffset .enable) v) opcodeRows[0] where
  mem := List.getElem_mem _
  hit := rfl
  data := (DataCond.holds_nonzero v).2 nonzero
  priority := rfl
  mnemonic := congrArg mnemonicOf (decodeWrite_enableOn nonzero).symm

/-- A row whose pattern has offset 0 matches every offset that is 0 on the bits the row compares. -/
theorem genericRow_hit {k : BitVec 2} {off m : Word} {r : Row}
    (kind : k &&& r.mask.extractLsb' 32 2 = r.kind) (mask : r.offsetMask = m)
    (base : r.offset = 0#32) (zero : off &&& m = 0#32) :
    (k ++ off : BitVec (2 + 32)) &&& r.mask = r.pattern :=
  (selector_match _ _ _ _).2 ⟨kind, by rw [← base, ← mask] at zero; exact zero⟩

/-- Every host read has its row (R60, second table). -/
theorem exists_accessRow_read (off v : Word) : ∃ r, AccessRow kindRead off v (decodeRead off) r := by
  by_cases valid : validOffset off = true
  · cases named : regAt off with
    | some x =>
      obtain rfl := regAt_eq_some.1 named
      exact ⟨readRow x, accessRow_readRow x v⟩
    | none =>
      exact ⟨opcodeRows[27],
        { mem := List.getElem_mem _
          hit := genericRow_hit (by decide) (by decide) (by decide)
            (land_admissionMask_of_valid valid)
          data := rfl
          priority := (accessPriority_unnamed valid named).symm
          mnemonic := congrArg mnemonicOf (decodeRead_unnamed valid named).symm }⟩
  · exact ⟨opcodeRows[28],
      { mem := List.getElem_mem _
        hit := genericRow_hit (by decide) (by decide) (by decide) BitVec.and_zero
        data := rfl
        priority := (accessPriority_invalid valid).symm
        mnemonic := congrArg mnemonicOf (decodeRead_invalid valid).symm }⟩

/-- Every host write has its row (R60, first table). -/
theorem exists_accessRow_write (off v : Word) :
    ∃ r, AccessRow kindWrite off v (decodeWrite off v) r := by
  by_cases valid : validOffset off = true
  · cases named : regAt off with
    | some x =>
      obtain rfl := regAt_eq_some.1 named
      by_cases on : x = .enable ∧ v ≠ 0#32
      · obtain ⟨rfl, nonzero⟩ := on
        exact ⟨_, accessRow_enableOn nonzero⟩
      · exact ⟨writeRow x, accessRow_writeRow x v fun enable => by_contra fun ne => on ⟨enable, ne⟩⟩
    | none =>
      exact ⟨opcodeRows[13],
        { mem := List.getElem_mem _
          hit := genericRow_hit (by decide) (by decide) (by decide)
            (land_admissionMask_of_valid valid)
          data := rfl
          priority := (accessPriority_unnamed valid named).symm
          mnemonic := congrArg mnemonicOf (decodeWrite_unnamed v valid named).symm }⟩
  · exact ⟨opcodeRows[14],
      { mem := List.getElem_mem _
        hit := genericRow_hit (by decide) (by decide) (by decide) BitVec.and_zero
        data := rfl
        priority := (accessPriority_invalid valid).symm
        mnemonic := congrArg mnemonicOf (decodeWrite_invalid v valid).symm }⟩

/-! ### The decoder and the winning row -/

/-- The row of a timer event wins for its word: no priority number is smaller than 0. -/
theorem event_wins {w : OpWord} {id : Word} {r : Row} (mem : r ∈ opcodeRows) (prio : r.priority = 0)
    (any : r.cond = .any) (kind : opKind w = kindEvent) (offset : opOffset w = id)
    (hit : (kindEvent ++ id : BitVec (2 + 32)) &&& r.mask = r.pattern) : Wins w r where
  mem := mem
  selects := by
    rw [Row.selects, opSelector_eq, kind, offset, beq_iff_eq.2 hit, any, DataCond.holds_any,
      Bool.and_true]
  least _ _ _ := prio.le.trans (Nat.zero_le _)

/-- The row of the operation a word decodes to wins for the word (R53). -/
theorem exists_wins_of_decode {w : OpWord} {i : Instr} (decoded : decode w = .ok i) :
    ∃ r, Wins w r ∧ r.mnemonic = mnemonicOf i := by
  rcases decode_ok decoded with ⟨read, rfl⟩ | ⟨write, rfl⟩ | ⟨event, fs, rfl⟩ | ⟨event, fe, rfl⟩
  · obtain ⟨r, row⟩ := exists_accessRow_read (opOffset w) (opData w)
    exact ⟨r, AccessRow.wins (.inl read) (read ▸ row), row.mnemonic⟩
  · obtain ⟨r, row⟩ := exists_accessRow_write (opOffset w) (opData w)
    exact ⟨r, AccessRow.wins (.inr write) (write ▸ row), row.mnemonic⟩
  · exact ⟨opcodeRows[29], event_wins (List.getElem_mem _) rfl rfl event fs rfl, rfl⟩
  · exact ⟨opcodeRows[30], event_wins (List.getElem_mem _) rfl rfl event fe rfl, rfl⟩

/-- A word that denotes no operation has no winning row. -/
theorem winningRow_of_decode_error {w : OpWord} {e : DecodeReject} (rejected : decode w = .error e) :
    winningRow w = none := by
  refine winningRow_eq_none fun r mem => Bool.eq_false_iff.2 fun sel => ?_
  obtain ⟨i, decoded⟩ := decode_of_selects mem sel
  rw [rejected] at decoded
  contradiction

/-! ### The internal operations -/

/-- The mnemonics of the rows of format `INT` (R60). -/
def internalMnemonics : List String :=
  ["INT.register_write", "INT.register_read", "INT.handler_write", "INT.handler_read",
   "INT.validate_dma_config", "INT.dma_write", "INT.MemWrite", "INT.create_timers",
   "INT.alloc_cache", "INT.release_cache", "INT.arm", "INT.set_irq", "INT.raise_flag"]

theorem mnemonicOf_mem_internalMnemonics {i : Instr} (internal : encode i = none) :
    mnemonicOf i ∈ internalMnemonics := by
  cases i <;> simp [encode, mnemonicOf, internalMnemonics] at internal ⊢

theorem internalMnemonics_disjoint :
    internalMnemonics.Disjoint (opcodeRows.map Row.mnemonic) := by
  simp [internalMnemonics, opcodeRows, writeRows, readRows, eventRows]

/-- Settles O4: the row of the decoded operation wins, and rows of one priority do not both match. -/
theorem decodeReadsTheWinningRow : Obligations.DecodeReadsTheWinningRow := by
  refine ⟨opSelector_eq, fun w i decoded => ?_, fun _ _ => winningRow_of_decode_error,
    fun w host => ?_, fun i internal => ?_⟩
  · obtain ⟨r, win, name⟩ := exists_wins_of_decode decoded
    rw [win.winningRow_eq, Option.map_some, name]
  · obtain ⟨i, decoded⟩ := decode_of_host host
    obtain ⟨r, win, -⟩ := exists_wins_of_decode decoded
    exact ⟨r, win.winningRow_eq, win.filter_eq⟩
  · exact internalMnemonics_disjoint (mnemonicOf_mem_internalMnemonics internal)

/-! ### The status encoding (R55) -/

/-- R89: a read of `OUT_STATUS` is answered from the status. -/
theorem registerRead_outStatus (s : State) :
    registerRead (regOffset .outStatus) s = .data (encStatus s.status) := rfl

/-- `OUT_STATUS` encodes three states and no more. -/
theorem encStatus_lt (st : Status) : (encStatus st).toNat < 3 := by cases st <;> decide

/-- Settles O21: the answer is the encoding of the live status. -/
theorem statusReadEncodesTheStatus : Obligations.StatusReadEncodesTheStatus := by
  intro s running
  have answer : exec .rdOutStatus s = .next (s.withResult (some (.data (encStatus s.status)))) := by
    rw [← registerRead_outStatus]
    exact answering_running running
  refine ⟨encStatus s.status, answer, ?_, ?_, ?_, encStatus_lt s.status⟩ <;>
    (intro status; rw [status]; rfl)

/-! ### The plane addresses (R56) -/

/-- The sum of the two words does not wrap. -/
theorem toNat_planeAddress (hi lo : Word) :
    (planeAddress hi lo).toNat = hi.toNat * 2 ^ 32 + lo.toNat := by
  have hi_lt := hi.isLt
  have lo_lt := lo.isLt
  simp only [planeAddress, BitVec.toNat_add, BitVec.toNat_shiftLeft, BitVec.toNat_setWidth,
    Nat.shiftLeft_eq]
  omega

/-- The words have no bit in common, so their sum is their concatenation. -/
theorem planeAddress_eq_append (hi lo : Word) : planeAddress hi lo = hi ++ lo := by
  apply BitVec.eq_of_toNat_eq
  rw [toNat_planeAddress, BitVec.toNat_append, ← Nat.shiftLeft_add_eq_or_of_lt lo.isLt,
    Nat.shiftLeft_eq]

theorem planeAddress_ne_zero (hi lo : Word) :
    planeAddress hi lo ≠ 0#64 ↔ hi ≠ 0#32 ∨ lo ≠ 0#32 := by
  simp only [ne_eq, ← BitVec.toNat_inj, toNat_planeAddress, BitVec.toNat_ofNat, Nat.zero_mod]
  omega

/-- Settles O51, by the value of the sum as a number. -/
theorem planeAddressJoinsTheWords : Obligations.PlaneAddressJoinsTheWords :=
  ⟨fun hi lo => ⟨planeAddress_eq_append hi lo, toNat_planeAddress hi lo, planeAddress_ne_zero hi lo⟩,
    fun _ => ⟨rfl, rfl⟩, by decide⟩

end Sys2Proof
end

section
/-! The family "register access": what a host access of a plain word does
(`spec/40_register_access.md` R64, R65), and the reads of R82 to R85, R90 and R91. -/

namespace Sys2Proof

open Sys2Proof.Machine

/-! ### Host reads answered from the bank (R65) -/

/-- Every word of the bank is 0 at reset (R32). -/
@[simp] theorem word_reset (off : Word) : State.reset.word off = 0#32 := by
  simp only [State.word, State.reset]
  rcases lt_or_ge (bankIndex off) 256 with inside | outside
  · simp [inside]
  · simp [outside]

/-- The word of a read of a named register denotes that read. -/
theorem decode_readWord (x : RegName) :
    decode (readWord x) = .ok (decodeRead (regOffset x)) := by
  simp [decode, readWord]

/-- R68: the read handler takes `OUT_STATUS` only. -/
theorem handlerRead_other {off : Word} (s : State) (ne : off ≠ regOffset .outStatus) :
    handlerRead off s = .declined :=
  if_neg ne

/-- R65: a declined read answers the stored word. -/
theorem registerRead_plain {off : Word} (s : State) (valid : validOffset off = true)
    (ne : off ≠ regOffset .outStatus) : registerRead off s = .data (s.word off) := by
  rw [registerRead, if_pos valid, handlerRead_other s ne]

/-- The host read of an admitted offset other than `OUT_STATUS` answers the stored word and changes
nothing. -/
theorem readsWord_decodeRead {off : Word} (valid : validOffset off = true)
    (ne : off ≠ regOffset .outStatus) : ReadsWord (decodeRead off) off := by
  intro s running
  rw [exec_decodeRead, ← registerRead_plain s valid ne]
  exact answering_running running

/-- The host read of a named register other than `OUT_STATUS`. -/
theorem readsWord_reg {x : RegName} (ne : x ≠ .outStatus) :
    ReadsWord (decodeRead (regOffset x)) (regOffset x) :=
  readsWord_decodeRead (validOffset_regOffset x) fun same => ne (regOffset_inj same)

/-! ### Host writes that only store (R64) -/

/-- R67: away from `ENABLE` and `IRQ_REG` the write handler does nothing. -/
theorem handlerWrite_other {off : Word} (v : Word) (s : State) (enable : off ≠ regOffset .enable)
    (irq : off ≠ regOffset .irqReg) : handlerWrite off v s = (.ok, s) :=
  (if_neg enable).trans (if_neg irq)

/-- R64: a write the handler does not act on stores its value and nothing else. -/
theorem registerWrite_plain {off : Word} (v : Word) (s : State) (valid : validOffset off = true)
    (enable : off ≠ regOffset .enable) (irq : off ≠ regOffset .irqReg) :
    registerWrite off v s = (.ok, s.setWord off v) := by
  rw [registerWrite, if_pos valid, handlerWrite_other v s enable irq]

/-- The host write of an admitted offset other than `ENABLE` and `IRQ_REG`. -/
theorem exec_decodeWrite_plain {off : Word} (v : Word) {s : State} (valid : validOffset off = true)
    (enable : off ≠ regOffset .enable) (irq : off ≠ regOffset .irqReg) (running : s.halted = false) :
    exec (decodeWrite off v) s = .next ((s.setWord off v).withResult (some .ok)) := by
  rw [exec_decodeWrite, hostWrite, answering_running running,
    registerWrite_plain v s valid enable irq]

/-- A plain register written from reset reads back as the value written. -/
theorem readsBackFromReset_reg {x : RegName} (enable : x ≠ .enable) (irq : x ≠ .irqReg)
    (status : x ≠ .outStatus) (v : Word) :
    ReadsBackFromReset (decodeWrite (regOffset x)) (decodeRead (regOffset x)) v := by
  refine ⟨_, exec_decodeWrite_plain v (validOffset_regOffset x)
    (fun same => enable (regOffset_inj same)) (fun same => irq (regOffset_inj same)) rfl, ?_⟩
  have stored : ((State.reset.setWord (regOffset x) v).withResult (some .ok)).word (regOffset x) = v :=
    word_setWord_same State.reset v (validOffset_regOffset x)
  rw [readsWord_reg status _ rfl, stored]

/-- Settles O19: each of the six registers is plain, so its read answers its word of the bank. -/
theorem plainReadsReturnTheirWord : Obligations.PlainReadsReturnTheirWord :=
  ⟨⟨decode_readWord .outAddrLo0, readsWord_reg (x := .outAddrLo0) (by decide), word_reset _⟩,
    ⟨decode_readWord .outAddrHi0, readsWord_reg (x := .outAddrHi0) (by decide),
      readsBackFromReset_reg (x := .outAddrHi0) (by decide) (by decide) (by decide) _⟩,
    ⟨decode_readWord .outAddrLo1, readsWord_reg (x := .outAddrLo1) (by decide), word_reset _⟩,
    ⟨decode_readWord .outAddrHi1, readsWord_reg (x := .outAddrHi1) (by decide), word_reset _⟩,
    ⟨decode_readWord .vvalidDuration, readsWord_reg (x := .vvalidDuration) (by decide),
      readsBackFromReset_reg (x := .vvalidDuration) (by decide) (by decide) (by decide) _⟩,
    ⟨decode_readWord .vblankDuration, readsWord_reg (x := .vblankDuration) (by decide),
      readsBackFromReset_reg (x := .vblankDuration) (by decide) (by decide) (by decide) _⟩⟩

end Sys2Proof
end

section
/-! The family "frame sequencer": a timer event in an unexpected status
(`spec/42_frame_sequencer.md` R109), and the release of the cache (R104). -/

namespace Sys2Proof

open Sys2Proof.Machine

/-! ### Timer events that are due (R108) -/

theorem exec_evFrameStart_due {s : State} (running : s.halted = false) (pending : s.fs.pending = true)
    (due : s.fs.deadline ≤ s.now) :
    exec .evFrameStart s = .next ((frameStartFire (clearPending .fs s)).withResult none) :=
  timerEvent_next.2 ⟨running, pending, due, rfl⟩

theorem exec_evFrameEnd_due {s : State} (running : s.halted = false) (pending : s.fe.pending = true)
    (due : s.fe.deadline ≤ s.now) :
    exec .evFrameEnd s = .next ((frameEndFire (clearPending .fe s)).withResult none) :=
  timerEvent_next.2 ⟨running, pending, due, rfl⟩

/-! ### What sets `halted` (R109) -/

theorem frameStartFire_unexpected {s : State} (status : s.status ≠ .blanking) :
    frameStartFire s = consistencyViolation s :=
  if_pos status

theorem frameEndFire_unexpected {s : State} (status : s.status ≠ .frameValid) :
    frameEndFire s = consistencyViolation s :=
  if_pos status

/-- In the status it expects, the frame-start event stops or starts a frame and halts nothing. -/
theorem frameStartFire_halted {s : State} (status : s.status = .blanking) :
    (frameStartFire s).halted = s.halted := by
  rcases frameStartFire_effect s with ⟨other, _⟩ | ⟨_, _, eq⟩ | ⟨_, _, _, _, _, _, eq, _⟩
  · exact absurd status other
  · rw [eq]
  · rw [eq]

/-- In the status it expects, the frame-end event stops or starts blanking and halts nothing. -/
theorem frameEndFire_halted {s : State} (status : s.status = .frameValid) :
    (frameEndFire s).halted = s.halted := by
  rcases frameEndFire_effect s with ⟨other, _⟩ | ⟨_, _, eq⟩ | ⟨_, _, eq⟩
  · exact absurd status other
  · rw [eq]
  · rw [eq]

/-- No host write halts the block. -/
theorem registerWrite_halted (off v : Word) (s : State) :
    (registerWrite off v s).2.halted = s.halted := by
  rcases registerWrite_effect off v s with ⟨_, eq⟩ | ⟨_, _, _, _, eq⟩ | ⟨_, _, _, _, _, eq⟩ |
    ⟨_, _, _, eq⟩ | ⟨_, _, _, eq⟩ | ⟨_, _, eq⟩ | ⟨_, _, eq⟩ <;>
    exact congrArg (·.2.halted) eq

/-- While only the timer of the current phase is pending, no decoded operation halts the block. -/
theorem exec_decoded_running {w : OpWord} {i : Instr} {s t : State} (timers : TimersMatchStatus s)
    (decoded : decode w = .ok i) (run : exec i s = .next t) : t.halted = false := by
  obtain ⟨fs_pending, fe_pending⟩ := timers
  obtain ⟨running, ⟨_, _, rfl⟩ | ⟨_, _, rfl⟩ | ⟨_, pending, _, rfl⟩ | ⟨_, pending, _, rfl⟩⟩ :=
    exec_decoded decoded run
  · exact running
  · exact (registerWrite_halted _ _ s).trans running
  · have status : s.status = .blanking := by simpa [fs_pending] using pending
    exact (frameStartFire_halted (s := clearPending .fs s) status).trans running
  · have status : s.status = .frameValid := by simpa [fe_pending] using pending
    exact (frameEndFire_halted (s := clearPending .fe s) status).trans running

/-- Settles O34: a step under the invariants waits or runs a decoded operation, and a timer that
fires is that of the current phase. -/
theorem unexpectedTimerEventHalts : Obligations.UnexpectedTimerEventHalts := by
  refine ⟨fun s running pending due status => ?_, fun s running pending due status => ?_,
    fun s t inv next => ?_⟩
  · rw [exec_evFrameStart_due running pending due,
      frameStartFire_unexpected (s := clearPending .fs s) status]
    rfl
  · rw [exec_evFrameEnd_due running pending due,
      frameEndFire_unexpected (s := clearPending .fe s) status]
    rfl
  · rcases step_decoded inv next with rfl | ⟨w, i, now, inbox, decoded, _, _, run⟩
    · exact inv.running
    · exact exec_decoded_running (s := { s with now := now, inbox := inbox })
        inv.timersMatchStatus decoded run

/-! ### What releases the cache (R104) -/

/-- The frame-start event keeps the cache, or stops in Idle. -/
theorem frameStartFire_cache (s : State) :
    (frameStartFire s).cache = s.cache ∨ (frameStartFire s).status = .idle := by
  rcases frameStartFire_effect s with ⟨_, eq⟩ | ⟨_, _, eq⟩ | ⟨_, _, _, _, _, _, eq, _⟩
  · exact .inl (by rw [eq])
  · exact .inr (by rw [eq])
  · exact .inl (by rw [eq])

/-- The frame-end event keeps the cache, or stops in Idle. -/
theorem frameEndFire_cache (s : State) :
    (frameEndFire s).cache = s.cache ∨ (frameEndFire s).status = .idle := by
  rcases frameEndFire_effect s with ⟨_, eq⟩ | ⟨_, _, eq⟩ | ⟨_, _, eq⟩
  · exact .inl (by rw [eq])
  · exact .inr (by rw [eq])
  · exact .inl (by rw [eq])

/-- A host write keeps an existing cache, or is the disable in Idle: an enable succeeds only where
there is none. -/
theorem registerWrite_cache (off v : Word) {s : State} (cached : s.cache.isSome = true) :
    (registerWrite off v s).2.cache = s.cache ∨ (registerWrite off v s).2.status = .idle := by
  rcases registerWrite_effect off v s with ⟨_, eq⟩ | ⟨_, _, _, _, eq⟩ | ⟨_, _, _, _, empty, _⟩ |
    ⟨idle, _, _, eq⟩ | ⟨_, _, _, eq⟩ | ⟨_, _, eq⟩ | ⟨_, _, eq⟩
  case inr.inr.inl => simp [empty] at cached
  case inr.inr.inr.inl => exact .inr ((congrArg (·.2.status) eq).trans idle)
  all_goals exact .inl (congrArg (·.2.cache) eq)

/-- A decoded operation keeps an existing cache, or leaves the device Idle. -/
theorem exec_decoded_cache {w : OpWord} {i : Instr} {s t : State} (decoded : decode w = .ok i)
    (run : exec i s = .next t) (cached : s.cache.isSome = true) :
    t.cache = s.cache ∨ t.status = .idle := by
  obtain ⟨_, ⟨_, _, rfl⟩ | ⟨_, _, rfl⟩ | ⟨_, _, _, rfl⟩ | ⟨_, _, _, rfl⟩⟩ :=
    exec_decoded decoded run
  · exact .inl rfl
  · exact registerWrite_cache _ _ cached
  · exact frameStartFire_cache (clearPending .fs s)
  · exact frameEndFire_cache (clearPending .fe s)

/-- R104: nothing changes when there is no cache. -/
theorem releaseCache_of_none {s : State} (empty : s.cache = none) (len : s.cacheLen = 0) :
    releaseCache s = s := by
  rw [releaseCache, ← empty, ← len]

/-- Settles O45: an operation that does not keep an existing cache leaves the device Idle. -/
theorem releaseRemovesTheCache : Obligations.ReleaseRemovesTheCache := by
  refine ⟨fun s running => answerless_running running, fun s running empty len => ?_,
    fun w i s t decoded run cached released => ?_⟩
  · have release : exec .intReleaseCache s = .next ((releaseCache s).withResult none) :=
      answerless_running running
    rw [release, releaseCache_of_none empty len]
    rfl
  · rcases exec_decoded_cache decoded run cached with kept | idle
    · rw [← kept, released] at cached
      contradiction
    · exact idle

end Sys2Proof
end

section
/-! The family "interrupt line": the framework's `set_irq` (`spec/43_interrupt_line.md` R111) and the
level of the line (R114). -/

namespace Sys2Proof

open Sys2Proof.Machine

/-- R114: the line is a level, asserted by every value but 0. -/
theorem lineAsserted_iff (value : Word) : lineAsserted value = true ↔ value ≠ 0#32 :=
  bne_iff_ne

/-- R111: a running block delivers the value, whatever the line had before. -/
theorem exec_intSetIrq_running (value : Word) {s : State} (running : s.halted = false) :
    exec (.intSetIrq value) s = .next ((setIrq value s).withResult none) :=
  answerless_running running

/-- Settles O36: the delivery leaves the line at the value, so its level is that of the value; the
example of R111 is the case of the reset state. -/
theorem setIrqDrivesTheLine : Obligations.SetIrqDrivesTheLine := by
  have delivers (v : Word) (s : State) (running : s.halted = false) :
      ∃ t, exec (.intSetIrq v) s = .next t ∧
        t = { s with irqLine := v, irqTrace := s.irqTrace ++ [v], result := none } ∧
        (lineAsserted t.irqLine = true ↔ v ≠ 0#32) :=
    ⟨_, exec_intSetIrq_running v running, rfl, lineAsserted_iff v⟩
  obtain ⟨t, run, rfl, level⟩ := delivers 1#32 State.reset rfl
  exact ⟨delivers, _, run, rfl, level.2 (by decide)⟩

end Sys2Proof
end

section
/-! The operation words (`spec/30_encoding.md` R51 to R53, R60): `encode` and `decode` undo each
other. -/

namespace Sys2Proof

open Sys2Proof.Machine

/-! ### Words written by the encoder -/

theorem decode_packWord_read (off v : Word) :
    decode (packWord kindRead off v) = .ok (decodeRead off) := by
  simp [decode]

theorem decode_packWord_write (off v : Word) :
    decode (packWord kindWrite off v) = .ok (decodeWrite off v) := by
  simp [decode, kindRead, kindWrite]

/-- What a well-formed operation with a word is: the host access or the timer event of the word's own
fields. -/
theorem encode_eq_some {i : Instr} {w : OpWord} (wf : WellFormed i = true)
    (enc : encode i = some w) :
    (∃ off v, packWord kindWrite off v = w ∧ decodeWrite off v = i) ∨
    (∃ off v, packWord kindRead off v = w ∧ decodeRead off = i) ∨
    (∃ x, packWord kindEvent (timerCode x) 0#32 = w ∧ eventOf x = i) := by
  cases i
  case wrEnableOn v =>
    exact .inl ⟨_, _, Option.some.inj enc, decodeWrite_enableOn (bne_iff_ne.1 wf)⟩
  case wrUnnamed off v =>
    obtain ⟨valid, unnamed⟩ := Bool.and_eq_true_iff.1 wf
    exact .inl ⟨_, _, Option.some.inj enc,
      decodeWrite_unnamed v valid (Option.isNone_iff_eq_none.1 unnamed)⟩
  case wrInvalid off v =>
    exact .inl ⟨_, _, Option.some.inj enc, decodeWrite_invalid v (by simpa [WellFormed] using wf)⟩
  case rdUnnamed off =>
    obtain ⟨valid, unnamed⟩ := Bool.and_eq_true_iff.1 wf
    exact .inr (.inl ⟨_, _, Option.some.inj enc,
      decodeRead_unnamed valid (Option.isNone_iff_eq_none.1 unnamed)⟩)
  case rdInvalid off =>
    exact .inr (.inl ⟨_, _, Option.some.inj enc, decodeRead_invalid (by simpa [WellFormed] using wf)⟩)
  case wrEnableOff | wrOutAddrLo0 | wrOutAddrHi0 | wrOutAddrLo1 | wrOutAddrHi1 | wrOutFormat |
      wrOutWidth | wrOutHeight | wrOutStatus | wrVvalidDuration | wrVblankDuration | wrIrqReg =>
    exact .inl ⟨_, _, Option.some.inj enc, rfl⟩
  case rdEnable | rdOutAddrLo0 | rdOutAddrHi0 | rdOutAddrLo1 | rdOutAddrHi1 | rdOutFormat |
      rdOutWidth | rdOutHeight | rdOutStatus | rdVvalidDuration | rdVblankDuration | rdIrqReg =>
    exact .inr (.inl ⟨_, _, Option.some.inj enc, rfl⟩)
  case evFrameStart | evFrameEnd =>
    exact .inr (.inr ⟨_, Option.some.inj enc, rfl⟩)
  all_goals exact absurd enc (Option.some_ne_none w).symm

/-- Settles O2: the decoder reads back the fields the encoder packs. -/
theorem decodeOfEncodeIsTheOperation : Obligations.DecodeOfEncodeIsTheOperation := by
  intro i w wf enc
  rcases encode_eq_some wf enc with ⟨off, v, rfl, rfl⟩ | ⟨off, v, rfl, rfl⟩ | ⟨x, rfl, rfl⟩
  · exact decode_packWord_write off v
  · exact decode_packWord_read off v
  · exact decode_event x

/-! ### Operations answered by the decoder -/

theorem wellFormed_decodeWrite (off v : Word) : WellFormed (decodeWrite off v) = true := by
  by_cases valid : validOffset off = true
  · cases named : regAt off with
    | none =>
      rw [decodeWrite_unnamed v valid named]
      simp [WellFormed, unnamedOffset, valid, named]
    | some x =>
      obtain rfl := regAt_eq_some.1 named
      cases x
      case enable => by_cases off_value : v = 0#32 <;> simp [decodeWrite, off_value, WellFormed]
      all_goals rfl
  · rw [decodeWrite_invalid v valid]
    simpa [WellFormed] using valid

theorem wellFormed_decodeRead (off : Word) : WellFormed (decodeRead off) = true := by
  by_cases valid : validOffset off = true
  · cases named : regAt off with
    | none =>
      rw [decodeRead_unnamed valid named]
      simp [WellFormed, unnamedOffset, valid, named]
    | some x =>
      obtain rfl := regAt_eq_some.1 named
      cases x <;> rfl
  · rw [decodeRead_invalid valid]
    simpa [WellFormed] using valid

theorem encode_decodeWrite (off v : Word) :
    encode (decodeWrite off v) = some (packWord kindWrite off v) := by
  by_cases valid : validOffset off = true
  · cases named : regAt off with
    | none => rw [decodeWrite_unnamed v valid named]; rfl
    | some x =>
      obtain rfl := regAt_eq_some.1 named
      cases x
      case enable =>
        by_cases off_value : v = 0#32 <;> simp [decodeWrite, off_value, encode, writeWord]
      all_goals rfl
  · rw [decodeWrite_invalid v valid]; rfl

theorem encode_decodeRead (off : Word) :
    encode (decodeRead off) = some (packWord kindRead off 0#32) := by
  by_cases valid : validOffset off = true
  · cases named : regAt off with
    | none => rw [decodeRead_unnamed valid named]; rfl
    | some x =>
      obtain rfl := regAt_eq_some.1 named
      cases x <;> rfl
  · rw [decodeRead_invalid valid]; rfl

/-- Words of one kind and offset have one selector. -/
theorem opSelector_packWord_of_fields {w : OpWord} {k : BitVec 2} {off : Word} (v : Word)
    (kind : opKind w = k) (offset : opOffset w = off) :
    opSelector (packWord k off v) = opSelector w := by
  rw [opSelector_packWord, opSelector_eq, kind, offset]

/-- Settles O3: the encoder writes back the kind and the offset, and in a write the value too. -/
theorem encodeOfDecodeIsTheWord : Obligations.EncodeOfDecodeIsTheWord := by
  intro w i decoded
  have noWrite {k : BitVec 2} (kind : opKind w = k) (ne : k ≠ kindWrite) (w' : OpWord) :
      opKind w = kindWrite → w' = w := fun write => absurd (kind.symm.trans write) ne
  rcases decode_ok decoded with ⟨kind, rfl⟩ | ⟨kind, rfl⟩ | ⟨kind, id, rfl⟩ | ⟨kind, id, rfl⟩
  · exact ⟨wellFormed_decodeRead _, _, encode_decodeRead _,
      opSelector_packWord_of_fields _ kind rfl, noWrite kind (by decide) _⟩
  · exact ⟨wellFormed_decodeWrite _ _, _, encode_decodeWrite _ _,
      opSelector_packWord_of_fields _ kind rfl, fun _ => kind ▸ packWord_fields w⟩
  · exact ⟨rfl, _, rfl, opSelector_packWord_of_fields _ kind id, noWrite kind (by decide) _⟩
  · exact ⟨rfl, _, rfl, opSelector_packWord_of_fields _ kind id, noWrite kind (by decide) _⟩

/-- Settles O1: the decoder is evaluated on each word. -/
theorem sampleWordsDecode : Obligations.SampleWordsDecode := by
  unfold Obligations.SampleWordsDecode
  decide +kernel

end Sys2Proof
end

section
/-! The step: whose turn it is (`spec/00_scope.md` R3, R4), a presented word
(`spec/30_encoding.md` R61), the firing of a timer (`spec/42_frame_sequencer.md` R108), and the
halted block (`spec/10_state.md` R28). -/

namespace Sys2Proof

open Sys2Proof.Machine

/-! ### Whose turn it is -/

/-- The oldest request has the turn when no pending timer must fire before it. -/
theorem nextTurn_request {s : State} {r : Request} {rest : List Request} (running : s.halted = false)
    (inbox : s.inbox = r :: rest)
    (first : ∀ x, pendingTimer s = some x → arrivesAt r s ≤ firesAt x s) :
    nextTurn s = requestTurn r rest s := by
  cases timer : pendingTimer s with
  | none => simp [nextTurn, running, inbox, timer]
  | some x => simp [nextTurn, running, inbox, timer, requestFirst, first x timer]

/-- A pending timer has the turn when no request comes first. -/
theorem nextTurn_timer {s : State} {x : TimerId} (running : s.halted = false)
    (timer : pendingTimer s = some x)
    (later : ∀ r rest, s.inbox = r :: rest → firesAt x s < arrivesAt r s) :
    nextTurn s = fireTurn x s := by
  cases inbox : s.inbox with
  | nil => simp [nextTurn, running, inbox, timer]
  | cons r rest => simp [nextTurn, running, inbox, timer, requestFirst, later r rest inbox]

theorem nextTurn_waiting {s : State} (running : s.halted = false) (inbox : s.inbox = [])
    (timer : pendingTimer s = none) : nextTurn s = .idle := by
  simp [nextTurn, running, inbox, timer]

/-! ### What the step is -/

/-- A step whose turn is a request's runs the operation of its word, at its time. -/
theorem step_request {s : State} {r : Request} {rest : List Request} {i : Instr}
    (running : s.halted = false) (inbox : s.inbox = r :: rest) (decoded : decode r.word = .ok i)
    (first : ∀ x, pendingTimer s = some x → arrivesAt r s ≤ firesAt x s) :
    step s = exec i { s with now := arrivesAt r s, inbox := rest } := by
  simp only [step, nextTurn_request running inbox first, requestTurn, decoded]

/-- A step whose turn is a request's refuses a word that denotes no operation. -/
theorem step_rejected {s : State} {r : Request} {rest : List Request} {e : DecodeReject}
    (running : s.halted = false) (inbox : s.inbox = r :: rest) (rejected : decode r.word = .error e)
    (first : ∀ x, pendingTimer s = some x → arrivesAt r s ≤ firesAt x s) :
    step s = .refused (rejection e) := by
  simp only [step, nextTurn_request running inbox first, requestTurn, rejected]

/-- A step whose turn is a timer's is its event, at its last instant. -/
theorem step_timer {s : State} {x : TimerId} (running : s.halted = false)
    (timer : pendingTimer s = some x)
    (later : ∀ r rest, s.inbox = r :: rest → firesAt x s < arrivesAt r s) :
    step s = exec (eventOf x) { s with now := firesAt x s } := by
  simp only [step, nextTurn_timer running timer later, fireTurn]

theorem step_waiting {s : State} (running : s.halted = false) (inbox : s.inbox = [])
    (timer : pendingTimer s = none) : step s = .next s := by
  simp only [step, nextTurn_waiting running inbox timer]

/-! ### Presented words -/

/-- A word presented now comes no later than any timer fires. -/
theorem present_first (s : State) (w : OpWord) (x : TimerId) :
    arrivesAt { time := s.now, word := w } (present w s) ≤ firesAt x (present w s) := by
  simp [arrivesAt, firesAt]

theorem step_present {s : State} {w : OpWord} {i : Instr} (running : s.halted = false)
    (decoded : decode w = .ok i) : step (present w s) = exec i s := by
  rw [step_request (s := present w s) running rfl decoded fun x _ => present_first s w x]
  simp [arrivesAt, present]

theorem step_present_rejected {s : State} {w : OpWord} {e : DecodeReject} (running : s.halted = false)
    (rejected : decode w = .error e) : step (present w s) = .refused (rejection e) :=
  step_rejected (s := present w s) running rfl rejected fun x _ => present_first s w x

/-- 66 bits are the whole word (log entry 4). -/
theorem withFetchWord_whole (s : State) (w : OpWord) :
    s.withFetchWord 66 w.toNat = present w s := by
  simp [State.withFetchWord, tableWord, w.isLt]

/-- R52: an event word with another timer id than 0 and 1 denotes no operation. -/
theorem decodeEvent_noSuchTimer {id : Word} (other : 2 ≤ id.toNat) :
    decodeEvent id = .error (.noSuchTimer id) := by
  have not_code (x : TimerId) : id ≠ timerCode x := by
    rintro rfl
    cases x <;> exact absurd other (by decide)
  rw [decodeEvent, if_neg (not_code _), if_neg (not_code _)]

/-- Settles O5: the decoder rejects such a word, and a word presented now is the step's. -/
theorem noOperationWordsAreRefused : Obligations.NoOperationWordsAreRefused := by
  refine fun s w running => ⟨fun kind => ?_, fun kind other => ?_⟩
  · exact step_present_rejected (e := .noSuchKind) running
      (by simp [decode, kind, kindRead, kindWrite, kindEvent])
  · exact step_present_rejected (e := .noSuchTimer (opOffset w)) running
      (by simp [decode, kind, kindRead, kindWrite, kindEvent, decodeEvent_noSuchTimer other])

/-- Settles O6: the request has the turn, and a word presented now has it too. -/
theorem stepRunsThePresentedOperation : Obligations.StepRunsThePresentedOperation := by
  refine ⟨fun s r rest i running inbox decoded first => ?_, fun s w i running decoded => ?_⟩
  · exact step_request running inbox decoded first
  · rw [withFetchWord_whole]
    exact step_present running decoded

/-! ### Timers -/

/-- A timer that fires is due. -/
theorem deadline_le_firesAt (x : TimerId) (s : State) : (s.timer x).deadline ≤ firesAt x s :=
  (Nat.le_add_right _ _).trans (le_max_right _ _)

/-- What the event of a timer does after the pending bit is cleared. -/
def fireOf : TimerId → State → State
  | .fs => frameStartFire
  | .fe => frameEndFire

theorem exec_eventOf_next {x : TimerId} {s t : State} :
    exec (eventOf x) s = .next t ↔
      s.halted = false ∧ (s.timer x).pending = true ∧ (s.timer x).deadline ≤ s.now ∧
        t = (fireOf x (clearPending x s)).withResult none := by
  cases x <;> exact timerEvent_next

/-- Neither event arms its own timer, and neither moves the clock. -/
theorem fireOf_keeps (x : TimerId) (s : State) :
    ((fireOf x s).timer x) = s.timer x ∧ (fireOf x s).now = s.now := by
  cases x
  case fs =>
    show (frameStartFire s).fs = s.fs ∧ (frameStartFire s).now = s.now
    rcases frameStartFire_effect s with ⟨_, eq⟩ | ⟨_, _, eq⟩ | ⟨_, _, _, _, _, _, eq, _⟩ <;>
      rw [eq] <;> exact ⟨rfl, rfl⟩
  case fe =>
    show (frameEndFire s).fe = s.fe ∧ (frameEndFire s).now = s.now
    rcases frameEndFire_effect s with ⟨_, eq⟩ | ⟨_, _, eq⟩ | ⟨_, _, eq⟩ <;>
      rw [eq] <;> exact ⟨rfl, rfl⟩

@[simp] theorem clearPending_timer_same (x : TimerId) (s : State) :
    (clearPending x s).timer x = { s.timer x with pending := false } := by
  cases x <;> rfl

/-- Settles O7: the timer has the turn, it is due at its last instant, and its event does not arm it
again. -/
theorem pendingTimerFires : Obligations.PendingTimerFires := by
  intro s x running timer later
  have fires := step_timer running timer later
  have due : exec (eventOf x) { s with now := firesAt x s } = .next _ :=
    exec_eventOf_next.2 ⟨running, pendingTimer_pending (s := s) timer, deadline_le_firesAt x s, rfl⟩
  obtain ⟨own, clock⟩ := fireOf_keeps x (clearPending x { s with now := firesAt x s })
  refine ⟨_, fires.trans due, ?_, ?_, ?_⟩
  · rw [fires]
    cases x <;> rfl
  · cases x <;> exact congrArg Timer.pending (own.trans (clearPending_timer_same _ _))
  · exact clock.trans (clearPending_now _ _)

/-! ### Steps that do not happen -/

/-- R28: every operation begins with the test of `halted`. -/
theorem exec_halted (i : Instr) {s : State} (halted : s.halted = true) :
    exec i s = .fault .halted := by
  cases i <;> exact if_pos halted

theorem step_halted {s : State} (halted : s.halted = true) : step s = .fault .halted := by
  simp [step, nextTurn, halted]

/-- Settles O8: no agent has the turn. -/
theorem blockRestsWhenHaltedOrWaiting : Obligations.BlockRestsWhenHaltedOrWaiting := by
  refine ⟨fun s halted => ⟨step_halted halted, fun i => exec_halted i halted⟩,
    fun s running inbox fs fe => step_waiting running inbox ?_⟩
  simp [pendingTimer, fs, fe]

theorem timerEvent_notPending {x : TimerId} (fire : State → State) {s : State}
    (running : s.halted = false) (idle : (s.timer x).pending = false) :
    timerEvent x fire s = .refused (.timerNotPending x) := by
  simp [timerEvent, running, idle]

theorem timerEvent_notDue {x : TimerId} (fire : State → State) {s : State}
    (running : s.halted = false) (pending : (s.timer x).pending = true)
    (early : s.now < (s.timer x).deadline) :
    timerEvent x fire s = .refused (.timerNotDue x) := by
  simp [timerEvent, running, pending, early]

/-- Settles O9, by the two tests of a timer event. -/
theorem disabledTimerEventIsRefused : Obligations.DisabledTimerEventIsRefused :=
  fun _ running => ⟨timerEvent_notPending (x := .fs) _ running,
    timerEvent_notPending (x := .fe) _ running, timerEvent_notDue (x := .fs) _ running,
    timerEvent_notDue (x := .fe) _ running⟩

end Sys2Proof
end

section
/-! Host accesses (`spec/40_register_access.md`): the window, plain storage, invalid accesses, and what
a read shows after a write. -/

namespace Sys2Proof

open Sys2Proof.Machine

/-- Settles O14: the mask test is the bound and the alignment. -/
theorem admissionTestIsWindowAndAlignment : Obligations.AdmissionTestIsWindowAndAlignment :=
  validOffset_iff

/-! ### Plain writes -/

/-- R69 to R78: a write of a register the write handler does not act on. -/
theorem storesWord_reg {x : RegName} (enable : x ≠ .enable) (irq : x ≠ .irqReg) :
    StoresWord (decodeWrite (regOffset x)) (bankIndex (regOffset x)) := fun v _ running =>
  exec_decodeWrite_plain v (validOffset_regOffset x) (fun same => enable (regOffset_inj same))
    (fun same => irq (regOffset_inj same)) running

/-- Settles O15: the nine registers are plain. -/
theorem plainWritesStoreTheirWord : Obligations.PlainWritesStoreTheirWord :=
  ⟨storesWord_reg (x := .outAddrLo0) (by decide) (by decide),
    storesWord_reg (x := .outAddrHi0) (by decide) (by decide),
    storesWord_reg (x := .outAddrLo1) (by decide) (by decide),
    storesWord_reg (x := .outAddrHi1) (by decide) (by decide),
    storesWord_reg (x := .outFormat) (by decide) (by decide),
    storesWord_reg (x := .outWidth) (by decide) (by decide),
    storesWord_reg (x := .outHeight) (by decide) (by decide),
    storesWord_reg (x := .vvalidDuration) (by decide) (by decide),
    storesWord_reg (x := .vblankDuration) (by decide) (by decide)⟩

/-- Settles O20: the five registers' reads are answered from the bank. -/
theorem configurationReadsReturnTheirWord : Obligations.ConfigurationReadsReturnTheirWord :=
  ⟨readsWord_reg (x := .enable) (by decide), readsWord_reg (x := .outFormat) (by decide),
    readsWord_reg (x := .outWidth) (by decide), readsWord_reg (x := .outHeight) (by decide),
    readsWord_reg (x := .irqReg) (by decide)⟩

/-- Settles O17: an unnamed offset is neither of the write handler's two nor the read handler's one. -/
theorem unnamedWordsAreStorage : Obligations.UnnamedWordsAreStorage := by
  intro off v s free running
  obtain ⟨valid, none⟩ := Bool.and_eq_true_iff.1 free
  have unnamed := Option.isNone_iff_eq_none.1 none
  have other := regAt_eq_none.1 unnamed
  rw [← decodeWrite_unnamed v valid unnamed, ← decodeRead_unnamed valid unnamed]
  exact ⟨exec_decodeWrite_plain v valid (other _) (other _) running,
    readsWord_decodeRead valid (other _) s running⟩

/-! ### Invalid accesses -/

theorem registerWrite_invalid {off : Word} (v : Word) (s : State) (invalid : ¬ validOffset off = true) :
    registerWrite off v s = (.error .invalidAddress, s) :=
  if_neg invalid

theorem registerRead_invalid {off : Word} (s : State) (invalid : ¬ validOffset off = true) :
    registerRead off s = .error .invalidAddress :=
  if_neg invalid

/-- Settles O18: the admission test fails. -/
theorem invalidAccessChangesNothing : Obligations.InvalidAccessChangesNothing := by
  intro off v s outside running
  have invalid : ¬ validOffset off = true := by
    rw [validOffset_iff, ioWindowSize, accessSize]
    omega
  constructor
  · refine (answering_running running).trans ?_
    rw [registerWrite_invalid v s invalid]
    rfl
  · refine (answering_running running).trans ?_
    simp only [registerRead_invalid s invalid]
    rfl

/-! ### Reads after writes -/

theorem exec_decodeRead_next {off : Word} {s t : State} :
    exec (decodeRead off) s = .next t ↔
      s.halted = false ∧ t = s.withResult (some (registerRead off s)) := by
  rw [exec_decodeRead]
  exact answering_next

/-- A read answers the same in a state whose word and status are the same. -/
theorem registerRead_congr {off : Word} {s t : State} (word : t.word off = s.word off)
    (status : t.status = s.status) : registerRead off t = registerRead off s := by
  by_cases valid : validOffset off = true
  · by_cases live : off = regOffset .outStatus
    · rw [live, registerRead_outStatus, registerRead_outStatus, status]
    · rw [registerRead_plain t valid live, registerRead_plain s valid live, word]
  · rw [registerRead_invalid t valid, registerRead_invalid s valid]

/-- A read that answers in one state answers the same in another that reads alike. -/
theorem exec_decodeRead_of_alike {off : Word} {s t u : State} (running : t.halted = false)
    (alike : registerRead off t = registerRead off s) (read : exec (decodeRead off) s = .next u) :
    exec (decodeRead off) t = .next { t with result := u.result } := by
  obtain ⟨_, rfl⟩ := exec_decodeRead_next.1 read
  refine exec_decodeRead_next.2 ⟨running, ?_⟩
  rw [alike]
  rfl

/-- Settles O16: the word at 0x24 is the one word no read is answered from. -/
theorem statusWriteIsInvisible : Obligations.StatusWriteIsInvisible := by
  intro v s running
  refine ⟨_, storesWord_reg (x := .outStatus) (by decide) (by decide) v s running, rfl,
    fun off u valid read => exec_decodeRead_of_alike (s := s) running ?_ read⟩
  by_cases live : off = regOffset .outStatus
  · rw [live, registerRead_outStatus, registerRead_outStatus]
  · exact registerRead_congr (t := (s.setWord (regOffset .outStatus) v).withResult _)
      (word_setWord_other s v (validOffset_regOffset _) valid live) rfl

/-- R64: a write of any offset but `ENABLE` succeeds and stores its value; the handler before the store
leaves the bank, the status and `halted`. -/
theorem registerWrite_ok {off : Word} (v : Word) (s : State) (valid : validOffset off = true)
    (enable : off ≠ regOffset .enable) :
    ∃ s1 : State, registerWrite off v s = (.ok, s1.setWord off v) ∧ s1.bank = s.bank ∧
      s1.status = s.status ∧ s1.halted = s.halted := by
  by_cases irq : off = regOffset .irqReg
  · refine ⟨(irqHostWrite v s).2, ?_, ?_⟩
    · rw [registerWrite, if_pos valid, handlerWrite, if_neg enable, if_pos irq]
      rfl
    · unfold irqHostWrite
      dsimp only
      split <;> exact ⟨rfl, rfl, rfl⟩
  · exact ⟨s, registerWrite_plain v s valid enable irq, rfl, rfl, rfl⟩

/-- Settles O22: the write stores its word and no other, and leaves the status. -/
theorem writtenWordIsReadBack : Obligations.WrittenWordIsReadBack := by
  intro off v s valid enable live running
  obtain ⟨s1, write, bank, status, halted⟩ := registerWrite_ok v s valid enable
  have running1 : s1.halted = false := halted.trans running
  refine ⟨(s1.setWord off v).withResult (some .ok), ?_, ?_, fun off' u valid' ne read => ?_⟩
  · rw [exec_decodeWrite, hostWrite, answering_running running, write]
  · have stored : ((s1.setWord off v).withResult (some .ok)).word off = v :=
      word_setWord_same s1 v valid
    rw [readsWord_decodeRead valid live ((s1.setWord off v).withResult (some .ok)) running1, stored]
  · have kept : ((s1.setWord off v).withResult (some .ok)).word off' = s.word off' :=
      (word_setWord_other s1 v valid valid' ne).trans (word_congr s1 s bank off')
    exact exec_decodeRead_of_alike running1 (registerRead_congr kept status) read

/-! ### The framework's two operations and the handlers (R64 to R68) -/

/-- Settles O52: the host accesses are the framework's operations by definition. -/
theorem frameworkFunnelsTheHostAccesses : Obligations.FrameworkFunnelsTheHostAccesses := by
  refine fun off v s running => ⟨⟨_, answering_running running, ?_, fun valid enable irq => ?_⟩,
    _, answering_running running, ?_, fun valid live => registerRead_plain s valid live⟩
  · rw [exec_decodeWrite]
    exact answering_running running
  · rw [registerWrite_plain v s valid enable irq]
    rfl
  · exact exec_decodeRead_next.2 ⟨running, rfl⟩

/-- No handler stores a word (R67). -/
theorem handlerWrite_bank (off v : Word) (s : State) : (handlerWrite off v s).2.bank = s.bank := by
  unfold handlerWrite
  split_ifs
  · rcases enable_eq s with ⟨_, _, _, _, _, _, eq⟩ | ⟨_, _, eq | ⟨_, eq⟩⟩ <;> rw [eq] <;> rfl
  · unfold disable
    split <;> rfl
  · unfold irqHostWrite
    dsimp only
    split <;> rfl
  · rfl

/-- R64: the store follows a handler that answers `ok`. -/
theorem registerWrite_of_handler_ok {off v : Word} {s s1 : State} (valid : validOffset off = true)
    (handled : handlerWrite off v s = (.ok, s1)) :
    registerWrite off v s = (.ok, s1.setWord off v) := by
  rw [registerWrite, if_pos valid, handled]

/-- R64: an error of the handler is the error of the write. -/
theorem registerWrite_of_handler_error {off v : Word} {s : State} (valid : validOffset off = true)
    (failed : (handlerWrite off v s).1 ≠ .ok) : registerWrite off v s = handlerWrite off v s := by
  rw [registerWrite, if_pos valid]
  split
  · next handled => rw [handled] at failed; exact absurd rfl failed
  · rfl

/-- Settles O53: each handler's test of the offset, and the framework's store after it. -/
theorem handlersSpecialCaseThreeOffsets : Obligations.HandlersSpecialCaseThreeOffsets := by
  intro off v s running
  have handler (off : Word) : exec (.intHandlerWrite off v) s = .next
      ((handlerWrite off v s).2.withResult (some (handlerWrite off v s).1)) :=
    answering_running running
  have write (off : Word) : exec (decodeWrite off v) s = .next
      ((registerWrite off v s).2.withResult (some (registerWrite off v s).1)) := by
    rw [exec_decodeWrite]
    exact answering_running running
  have bank (off : Word) := handlerWrite_bank off v s
  refine ⟨fun enable irq => ?_, ⟨_, handler _, bank _, ?_⟩, ⟨_, handler _, bank _, fun ok => ?_,
    fun failed => ?_⟩, answering_running running, fun live => ?_⟩
  · rw [handler, handlerWrite_other v s enable irq]
    rfl
  · rw [← bank 0x30#32]
    refine (write 0x30#32).trans ?_
    rw [registerWrite_of_handler_ok (s1 := (handlerWrite 0x30#32 v s).2) (by decide) rfl]
    rfl
  · have handled : (handlerWrite 0x00#32 v s).1 = .ok := Option.some.inj ok
    rw [← bank 0x00#32, write,
      registerWrite_of_handler_ok (s1 := (handlerWrite 0x00#32 v s).2) (by decide)
        (Prod.ext handled rfl), handled]
    rfl
  · have handled : (handlerWrite 0x00#32 v s).1 ≠ .ok := fun ok => failed (congrArg some ok)
    rw [write, registerWrite_of_handler_error (by decide) handled]
  · refine (answering_running running).trans ?_
    simp only [handlerRead_other s live]
    rfl

/-- Settles O60: the codes of the environment are negative and distinct. -/
theorem resultCodesAreNegativeErrors : Obligations.ResultCodesAreNegativeErrors := fun codes =>
  ⟨rfl, fun k => ⟨codes.code k, rfl, codes.code_neg k, fun k' same =>
    codes.code_injective k' k (Option.some.inj same)⟩⟩

end Sys2Proof
end

section
/-! What every operation, the internal ones included, leaves of the environment: the clock, the inputs,
the parameters, the channels' enable flags (`spec/10_state.md` R25, R27), and the canonical form of the
target spaces (log entry 11). -/

namespace Sys2Proof

open Sys2Proof.Machine

/-! ### Channel tables with one entry changed -/

/-- A property of every entry survives a change of one. -/
theorem forall_mem_modify {α : Type} {l : List α} {P : α → Prop} (c : Nat) {f : α → α}
    (all : ∀ a ∈ l, P a) (changed : ∀ a ∈ l, P a → P (f a)) : ∀ a ∈ l.modify c f, P a := by
  intro a mem
  obtain ⟨n, at_n⟩ := List.mem_iff_getElem?.1 mem
  rw [List.getElem?_modify] at at_n
  obtain ⟨b, at_b, rfl⟩ := Option.map_eq_some_iff.1 at_n
  have old : b ∈ l := List.mem_of_getElem? at_b
  split
  · exact changed b old (all b old)
  · exact all b old

/-- A view of the entries of a changed table, where the view of a changed entry depends on the view of
the entry. -/
theorem map_modify_of_view {α β : Type} (l : List α) (c : Nat) {f : α → α} {view : α → β} {g : β → β}
    (changed : ∀ a, view (f a) = g (view a)) : (l.modify c f).map view = (l.map view).modify c g := by
  apply List.ext_getElem?
  intro n
  rw [List.getElem?_map, List.getElem?_modify, List.getElem?_modify, List.getElem?_map]
  cases l[n]? with
  | none => rfl
  | some a => by_cases here : c = n <;> simp [here, changed a]

/-! ### The frame of every operation -/

/-- The second state has the environment of the first: the clock, the inputs, the parameters, the
channels' enable flags, and spaces in canonical form if the first's are. -/
structure LeavesEnvironment (s t : State) : Prop where
  now : t.now = s.now
  inbox : t.inbox = s.inbox
  params : t.params = s.params
  enables : t.chan.map Channel.enable = s.chan.map Channel.enable
  canonical : SpacesCanonical s → SpacesCanonical t

theorem LeavesEnvironment.trans {s t u : State} (h : LeavesEnvironment s t)
    (h' : LeavesEnvironment t u) : LeavesEnvironment s u where
  now := h'.now.trans h.now
  inbox := h'.inbox.trans h.inbox
  params := h'.params.trans h.params
  enables := h'.enables.trans h.enables
  canonical wf := h'.canonical (h.canonical wf)

/-- A change of the block's own fields alone. -/
theorem leavesEnvironment_of_chan {s t : State} (now : t.now = s.now) (inbox : t.inbox = s.inbox)
    (params : t.params = s.params) (chan : t.chan = s.chan) : LeavesEnvironment s t :=
  ⟨now, inbox, params, by rw [chan], fun wf => by rwa [SpacesCanonical, chan]⟩

/-- The answer is no part of the environment. -/
theorem LeavesEnvironment.withResult {s t : State} (h : LeavesEnvironment s t) (r : Option Result) :
    LeavesEnvironment s (t.withResult r) :=
  h.trans (leavesEnvironment_of_chan rfl rfl rfl rfl)

/-- A change of one channel that keeps its enable flag and the canonical form of its space. -/
structure Tame (f : Channel → Channel) : Prop where
  enable : ∀ ch, (f ch).enable = ch.enable
  wf : ∀ ch, ch.space.wf → (f ch).space.wf

theorem leavesEnvironment_of_modify {s t : State} {c : Nat} {f : Channel → Channel}
    (now : t.now = s.now) (inbox : t.inbox = s.inbox) (params : t.params = s.params)
    (chan : t.chan = s.chan.modify c f) (tame : Tame f) : LeavesEnvironment s t where
  now := now
  inbox := inbox
  params := params
  enables := by rw [chan, map_modify_of_view (g := id) _ _ tame.enable, List.modify_id]
  canonical wf := by
    rw [SpacesCanonical, chan]
    exact forall_mem_modify c wf fun ch _ => tame.wf ch

/-! ### The shared operations -/

theorem leavesEnvironment_clearPending (x : TimerId) (s : State) :
    LeavesEnvironment s (clearPending x s) :=
  leavesEnvironment_of_chan (clearPending_now s x) (clearPending_inbox s x) (clearPending_params s x)
    (clearPending_chan s x)

theorem leavesEnvironment_arm (x : TimerId) (d : Word) (s : State) : LeavesEnvironment s (arm x d s) :=
  leavesEnvironment_of_chan (arm_now s x d) (arm_inbox s x d) (arm_params s x d) (arm_chan s x d)

theorem leavesEnvironment_createTimers (s : State) : LeavesEnvironment s (createTimers s).2 := by
  rcases createTimers_eq s with ⟨_, eq⟩ | ⟨_, eq⟩ <;>
    rw [eq] <;> exact leavesEnvironment_of_chan rfl rfl rfl rfl

theorem leavesEnvironment_allocCache (s : State) : LeavesEnvironment s (allocCache s).2 := by
  rcases allocCache_eq s with ⟨_, eq⟩ | ⟨_, _, eq⟩ | ⟨_, _, _, eq⟩ | ⟨_, _, _, eq⟩ <;>
    rw [eq] <;> exact leavesEnvironment_of_chan rfl rfl rfl rfl

theorem leavesEnvironment_handlerWrite (off v : Word) (s : State) :
    LeavesEnvironment s (handlerWrite off v s).2 := by
  unfold handlerWrite
  split_ifs
  · rcases enable_eq s with ⟨_, _, _, _, _, _, eq⟩ | ⟨_, _, eq | ⟨_, eq⟩⟩ <;>
      rw [eq] <;> exact leavesEnvironment_of_chan rfl rfl rfl rfl
  · unfold disable
    split <;> exact leavesEnvironment_of_chan rfl rfl rfl rfl
  · unfold irqHostWrite
    dsimp only
    split <;> exact leavesEnvironment_of_chan rfl rfl rfl rfl
  · exact leavesEnvironment_of_chan rfl rfl rfl rfl

theorem leavesEnvironment_registerWrite (off v : Word) (s : State) :
    LeavesEnvironment s (registerWrite off v s).2 := by
  rcases registerWrite_effect off v s with ⟨_, eq⟩ | ⟨_, _, _, _, eq⟩ | ⟨_, _, _, _, _, eq⟩ |
    ⟨_, _, _, eq⟩ | ⟨_, _, _, eq⟩ | ⟨_, _, eq⟩ | ⟨_, _, eq⟩ <;>
    rw [eq] <;> exact leavesEnvironment_of_chan rfl rfl rfl rfl

theorem leavesEnvironment_memWrite (c : Nat) (addr : Addr) (bytes : List Byte) (s : State) :
    LeavesEnvironment s (memWrite c addr bytes s).2 := by
  rcases memWrite_eq c addr bytes s with ⟨_, eq⟩ | ⟨fits, eq⟩ <;> rw [eq]
  · exact leavesEnvironment_of_chan rfl rfl rfl rfl
  · exact leavesEnvironment_of_modify rfl rfl rfl rfl
      ⟨fun _ => rfl, fun _ wf => writeBytes_wf _ wf (by simpa using fits)⟩

theorem leavesEnvironment_dmaWrite (channel : Nat) (buffer : List Byte) (length planeIndex : Nat)
    (s : State) : LeavesEnvironment s (dmaWrite channel buffer length planeIndex s).2 := by
  rcases dmaWrite_eq channel buffer length planeIndex s with ⟨_, eq⟩ | ⟨_, _, _, eq⟩ |
    ⟨_, _, fits, eq⟩ <;> rw [eq]
  · exact leavesEnvironment_of_chan rfl rfl rfl rfl
  · exact leavesEnvironment_of_modify rfl rfl rfl rfl ⟨fun _ => rfl, fun _ wf => wf⟩
  · exact leavesEnvironment_of_modify rfl rfl rfl rfl
      ⟨fun _ => rfl, fun _ wf => writeBytes_wf _ wf (by simpa using fits)⟩

/-- What a frame's DMA write does to a channel keeps its enable flag and the form of its space. -/
theorem tame_of_frameTouches {s : State} {touch : Channel → Channel} (touches : FrameTouches s touch) :
    Tame touch where
  enable ch := (touches ch).1
  wf ch wf := by
    obtain ⟨_, _, same | ⟨bytes, _, fits, written⟩⟩ := touches ch
    · rwa [same]
    · rw [written]
      exact writeBytes_wf bytes wf fits

theorem leavesEnvironment_frameStartFire (s : State) : LeavesEnvironment s (frameStartFire s) := by
  rcases frameStartFire_effect s with ⟨_, eq⟩ | ⟨_, _, eq⟩ |
    ⟨_, _, _, _, _, _, eq, ⟨same, _⟩ | ⟨_, changed, touches⟩⟩ <;> rw [eq]
  · exact leavesEnvironment_of_chan rfl rfl rfl rfl
  · exact leavesEnvironment_of_chan rfl rfl rfl rfl
  · exact leavesEnvironment_of_chan rfl rfl rfl same
  · exact leavesEnvironment_of_modify rfl rfl rfl changed (tame_of_frameTouches touches)

theorem leavesEnvironment_frameEndFire (s : State) : LeavesEnvironment s (frameEndFire s) := by
  rcases frameEndFire_effect s with ⟨_, eq⟩ | ⟨_, _, eq⟩ | ⟨_, _, eq⟩ <;>
    rw [eq] <;> exact leavesEnvironment_of_chan rfl rfl rfl rfl

theorem leavesEnvironment_answering {op : State → Result × State} {s t : State}
    (op_leaves : LeavesEnvironment s (op s).2) (next : answering op s = .next t) :
    LeavesEnvironment s t := by
  obtain ⟨_, rfl⟩ := answering_next.1 next
  exact op_leaves.withResult _

theorem leavesEnvironment_answerless {op : State → State} {s t : State}
    (op_leaves : LeavesEnvironment s (op s)) (next : answerless op s = .next t) :
    LeavesEnvironment s t := by
  obtain ⟨_, rfl⟩ := answerless_next.1 next
  exact op_leaves.withResult _

theorem leavesEnvironment_timerEvent {x : TimerId} {fire : State → State} {s t : State}
    (fire_leaves : ∀ s, LeavesEnvironment s (fire s)) (next : timerEvent x fire s = .next t) :
    LeavesEnvironment s t := by
  obtain ⟨_, _, _, rfl⟩ := timerEvent_next.1 next
  exact ((leavesEnvironment_clearPending x s).trans (fire_leaves _)).withResult _

/-! ### Every operation -/

/-- Every operation leaves the environment: a host write, a host read, a timer event, or one of the
internal operations. -/
theorem leavesEnvironment_exec {i : Instr} {s t : State} (next : exec i s = .next t) :
    LeavesEnvironment s t := by
  have unchanged : LeavesEnvironment s s := leavesEnvironment_of_chan rfl rfl rfl rfl
  cases i
  case wrEnableOn | wrEnableOff | wrOutAddrLo0 | wrOutAddrHi0 | wrOutAddrLo1 | wrOutAddrHi1 |
      wrOutFormat | wrOutWidth | wrOutHeight | wrOutStatus | wrVvalidDuration | wrVblankDuration |
      wrIrqReg | wrUnnamed | wrInvalid | intRegisterWrite =>
    exact leavesEnvironment_answering (leavesEnvironment_registerWrite _ _ s) next
  case rdEnable | rdOutAddrLo0 | rdOutAddrHi0 | rdOutAddrLo1 | rdOutAddrHi1 | rdOutFormat |
      rdOutWidth | rdOutHeight | rdOutStatus | rdVvalidDuration | rdVblankDuration | rdIrqReg |
      rdUnnamed | rdInvalid | intRegisterRead =>
    exact leavesEnvironment_answering (op := fun s => (registerRead _ s, s)) unchanged next
  case evFrameStart => exact leavesEnvironment_timerEvent leavesEnvironment_frameStartFire next
  case evFrameEnd => exact leavesEnvironment_timerEvent leavesEnvironment_frameEndFire next
  case intHandlerWrite =>
    exact leavesEnvironment_answering (leavesEnvironment_handlerWrite _ _ s) next
  case intHandlerRead =>
    exact leavesEnvironment_answering (op := fun s => (handlerRead _ s, s)) unchanged next
  case intValidateDmaConfig =>
    exact leavesEnvironment_answering (op := fun s => (validateDmaConfig _ _ s, s)) unchanged next
  case intDmaWrite =>
    exact leavesEnvironment_answering (leavesEnvironment_dmaWrite _ _ _ _ s) next
  case intMemWrite =>
    have padding (draws : Nat) : LeavesEnvironment s { s with draws := draws } :=
      leavesEnvironment_of_chan rfl rfl rfl rfl
    exact leavesEnvironment_answering (op := memWriteOnItsOwn _ _ _)
      ((padding _).trans (leavesEnvironment_memWrite _ _ _ _)) next
  case intCreateTimers => exact leavesEnvironment_answering (leavesEnvironment_createTimers s) next
  case intAllocCache => exact leavesEnvironment_answering (leavesEnvironment_allocCache s) next
  case intReleaseCache =>
    exact leavesEnvironment_answerless (op := releaseCache)
      (leavesEnvironment_of_chan rfl rfl rfl rfl) next
  case intArm => exact leavesEnvironment_answerless (leavesEnvironment_arm _ _ s) next
  case intSetIrq =>
    exact leavesEnvironment_answerless (op := setIrq _)
      (leavesEnvironment_of_chan rfl rfl rfl rfl) next
  case intRaiseFlag =>
    exact leavesEnvironment_answerless (op := raiseFlag _)
      (leavesEnvironment_of_chan rfl rfl rfl rfl) next

/-- Settles O13: the form is one clause of what every operation leaves. -/
theorem spacesStayCanonical : Obligations.SpacesStayCanonical := fun _ _ _ wf next =>
  (leavesEnvironment_exec next).canonical wf

/-- Settles O48: the other clauses. -/
theorem operationsLeaveTheEnvironment : Obligations.OperationsLeaveTheEnvironment := by
  intro i s t next
  obtain ⟨now, inbox, params, enables, _⟩ := leavesEnvironment_exec next
  exact ⟨now, inbox, params, enables⟩

/-- Settles O47: only the turn moves the clock, and it moves it forward. -/
theorem clockNeverRunsBack : Obligations.ClockNeverRunsBack := by
  intro s t next
  obtain ⟨_, ⟨_, _, rfl⟩ | ⟨_, _, _, _, _, _, run⟩ | ⟨_, _, _, run⟩⟩ := step_next next
  · exact le_rfl
  · exact (le_max_left _ _).trans (leavesEnvironment_exec run).now.ge
  · exact (le_max_left _ _).trans (leavesEnvironment_exec run).now.ge

end Sys2Proof
end

section
/-! The invariants of `spec/10_state.md` R31: at reset, and over every step. -/

namespace Sys2Proof

open Sys2Proof.Machine

/-- Settles O10: each clause is a field of the reset state. -/
theorem resetLeavesTheStatedValues : Obligations.ResetLeavesTheStatedValues :=
  ⟨word_reset, rfl, rfl, rfl, rfl, rfl, rfl, rfl, rfl, rfl, rfl, rfl, rfl, rfl, rfl⟩

/-- Settles O11: the device is Idle, with no cache, no pending timer and nothing delivered. -/
theorem resetMeetsTheInvariants : Obligations.ResetMeetsTheInvariants where
  running := rfl
  cacheMatchesStatus := by simp [CacheMatchesStatus, State.reset]
  timersMatchStatus := ⟨rfl, rfl⟩
  noStopInIdle _ := rfl
  timersCreated busy := absurd rfl busy
  channelsIdle := by simp [ChannelsIdle, State.reset, Channel.reset]
  cacheHoldsSentinel := by simp [CacheHoldsSentinel, State.reset]
  lineIsLastDelivery := rfl
  noTimerMissed x := by cases x <;> exact fun pending => Bool.noConfusion pending
  spacesCanonical := by simp [SpacesCanonical, State.reset, Channel.reset, Memory.wf]

/-! ### The preconditions of an enable -/

/-- R96: without a cache the length of plane 0 is that of a frame. -/
theorem planeLen_empty {s : State} (empty : s.cache = none) :
    planeLen primaryChannel 0 s = (s.word 0x1C#32).toNat * (s.word 0x20#32).toNat := by
  simp [planeLen, empty, State.reg, regOffset]

/-- R96: with a cache it is the latched length. -/
theorem planeLen_cached {s : State} (cached : s.cache.isSome = true) :
    planeLen primaryChannel 0 s = s.cacheLen := by
  simp [planeLen, cached]

/-- R95: what an enable asks of the descriptor of plane 0. -/
theorem validateDmaConfig_primary_iff (s : State) :
    validateDmaConfig primaryChannel 1 s = .ok ↔
      0 < s.chan.length ∧ (s.word 0x08#32 ≠ 0#32 ∨ s.word 0x0C#32 ≠ 0#32) ∧
        planeLen primaryChannel 0 s ≠ 0 := by
  have addr : planeAddr primaryChannel 0 s ≠ 0#64 ↔ s.word 0x08#32 ≠ 0#32 ∨ s.word 0x0C#32 ≠ 0#32 :=
    (planeAddress_ne_zero _ _).trans or_comm
  have planes : (∀ p, p < 1 → planeAddr primaryChannel p s ≠ 0#64 ∧ planeLen primaryChannel p s ≠ 0) ↔
      (s.word 0x08#32 ≠ 0#32 ∨ s.word 0x0C#32 ≠ 0#32) ∧ planeLen primaryChannel 0 s ≠ 0 := by
    simp only [Nat.lt_one_iff, forall_eq, addr]
  rw [validateDmaConfig_eq]
  split_ifs with config
  · obtain ⟨chan, _, set⟩ := config
    exact iff_of_true rfl ⟨chan, planes.1 set⟩
  · exact iff_of_false (by simp) fun ⟨chan, set⟩ => config ⟨chan, by decide, planes.2 set⟩

/-- Without a cache the descriptor of plane 0 is valid when its registers are set. -/
theorem validateDmaConfig_iff_planeReady {s : State} (empty : s.cache = none) :
    validateDmaConfig primaryChannel 1 s = .ok ↔ PlaneReady s := by
  have nonzero (v : Word) : v.toNat ≠ 0 ↔ v ≠ 0#32 := not_congr (BitVec.toNat_inj (y := 0#32))
  rw [validateDmaConfig_primary_iff, planeLen_empty empty, mul_ne_zero_iff, nonzero, nonzero,
    PlaneReady]

/-- A frame of a device that passes validation has a byte. -/
theorem frame_nonempty {s : State} (empty : s.cache = none)
    (valid : validateDmaConfig primaryChannel 1 s = .ok) :
    1 ≤ (s.word 0x1C#32).toNat * (s.word 0x20#32).toNat := by
  obtain ⟨_, _, width, height⟩ := (validateDmaConfig_iff_planeReady empty).1 valid
  have positive {v : Word} (ne : v ≠ 0#32) : 0 < v.toNat :=
    Nat.pos_of_ne_zero fun zero => ne (BitVec.eq_of_toNat_eq zero)
  exact Nat.mul_pos (positive width) (positive height)

/-! ### The invariants and the clock -/

theorem cacheHoldsSentinel_of_none {s : State} (empty : s.cache = none) : CacheHoldsSentinel s := by
  intro bytes cached
  rw [empty] at cached
  contradiction

/-- Time may pass up to the last instant of every pending timer. -/
theorem invariants_at {s : State} (inv : Invariants s) {now : Nat} (inbox : List Request)
    (inTime : ∀ x, (s.timer x).pending = true →
      now ≤ (s.timer x).deadline + s.params.timerLateness) :
    Invariants { s with now := now, inbox := inbox } :=
  { inv with noTimerMissed := inTime }

/-- A timer that was just armed is not missed. -/
theorem now_le_deadlineAfter (now lateness d : Nat) : now ≤ now + d * 1000 + lateness := by omega

/-! ### Host writes -/

/-- R101: a successful enable allocates the cache, creates both timers and arms the frame-start timer. -/
theorem invariants_started {s : State} (inv : Invariants s) (idle : s.status = .idle)
    (empty : s.cache = none) (valid : validateDmaConfig primaryChannel 1 s = .ok) :
    Invariants (started s) where
  running := inv.running
  cacheMatchesStatus := by simp [CacheMatchesStatus, started]
  timersMatchStatus := by
    obtain ⟨_, fe⟩ := inv.timersMatchStatus
    exact ⟨rfl, fe.trans (by rw [idle]; rfl)⟩
  noStopInIdle busy := Status.noConfusion busy
  timersCreated _ := ⟨rfl, rfl⟩
  channelsIdle := inv.channelsIdle
  cacheHoldsSentinel := by
    rintro bytes ⟨⟩
    exact ⟨List.length_replicate.symm, fun _ => List.eq_of_mem_replicate, frame_nonempty empty valid⟩
  lineIsLastDelivery := inv.lineIsLastDelivery
  noTimerMissed x pending := by
    cases x
    · exact now_le_deadlineAfter _ _ _
    · exact inv.noTimerMissed .fe pending
  spacesCanonical := inv.spacesCanonical

theorem invariants_withTimers {s : State} (inv : Invariants s) : Invariants (withTimers s) :=
  { inv with
    timersCreated := fun _ => ⟨rfl, rfl⟩
    noTimerMissed := fun x => by
      cases x
      · exact inv.noTimerMissed .fs
      · exact inv.noTimerMissed .fe }

theorem invariants_registerWrite {s : State} (inv : Invariants s) (off v : Word) :
    Invariants (registerWrite off v s).2 := by
  rcases registerWrite_effect off v s with ⟨_, eq⟩ | ⟨_, _, _, _, eq⟩ |
    ⟨idle, _, _, valid, empty, eq⟩ | ⟨idle, _, _, eq⟩ | ⟨busy, _, _, eq⟩ | ⟨_, _, eq⟩ |
    ⟨_, _, eq⟩ <;> rw [eq]
  · exact inv
  · exact invariants_withTimers inv
  · exact { invariants_started inv idle empty valid with }
  · exact
      { inv with
        cacheMatchesStatus := by simp [CacheMatchesStatus, idle]
        cacheHoldsSentinel := cacheHoldsSentinel_of_none rfl }
  · exact { inv with noStopInIdle := fun idle => absurd idle busy }
  · exact { inv with lineIsLastDelivery := by simp [LineIsLastDelivery] }
  · exact { inv with }

/-! ### Timer events -/

theorem status_of_fs_pending {s : State} (inv : Invariants s) (pending : s.fs.pending = true) :
    s.status = .blanking ∧ s.fe.pending = false := by
  obtain ⟨fs, fe⟩ := inv.timersMatchStatus
  have status : s.status = .blanking := by simpa [fs] using pending
  exact ⟨status, by rw [fe, status]; rfl⟩

theorem status_of_fe_pending {s : State} (inv : Invariants s) (pending : s.fe.pending = true) :
    s.status = .frameValid ∧ s.fs.pending = false := by
  obtain ⟨fs, fe⟩ := inv.timersMatchStatus
  have status : s.status = .frameValid := by simpa [fe] using pending
  exact ⟨status, by rw [fs, status]; rfl⟩

/-- R106, R107: a stop at either timer boundary, in a state with no timer pending. -/
theorem invariants_stopGeneration {s : State} (inv : Invariants s) {fs fe : Timer}
    (fs_idle : fs.pending = false) (fe_idle : fe.pending = false) (entries : List LogEntry) :
    Invariants (stopGeneration { s with fs := fs, fe := fe, log := entries }) :=
  { inv with
    cacheMatchesStatus := by simp [CacheMatchesStatus]
    timersMatchStatus := ⟨fs_idle, fe_idle⟩
    noStopInIdle := fun _ => rfl
    timersCreated := fun busy => absurd rfl busy
    cacheHoldsSentinel := cacheHoldsSentinel_of_none rfl
    noTimerMissed := fun x pending => by
      cases x
      · exact absurd (fs_idle.symm.trans pending) (by simp)
      · exact absurd (fe_idle.symm.trans pending) (by simp) }

theorem invariants_frameStart {s : State} (inv : Invariants s) (pending : s.fs.pending = true) :
    Invariants (frameStartFire (clearPending .fs s)) := by
  obtain ⟨status, fe_idle⟩ := status_of_fs_pending inv pending
  obtain ⟨fs_created, fe_created⟩ := inv.timersCreated (by rw [status]; decide)
  have cached : s.cache.isSome = true := inv.cacheMatchesStatus.2 (by rw [status]; decide)
  have canonical : SpacesCanonical (frameStartFire (clearPending .fs s)) :=
    (leavesEnvironment_frameStartFire _).canonical inv.spacesCanonical
  rcases frameStartFire_effect (clearPending .fs s) with ⟨other, _⟩ | ⟨_, _, eq⟩ |
    ⟨_, _, chan, _, _, _, eq, touched⟩
  · exact absurd status other
  · rw [eq]
    exact invariants_stopGeneration inv (fs := { s.fs with pending := false }) rfl fe_idle s.log
  · rw [eq] at canonical ⊢
    have idle : ∀ ch ∈ chan, ch.status = .idle := by
      rcases touched with ⟨rfl, _⟩ | ⟨touch, rfl, touches⟩
      · exact inv.channelsIdle
      · exact forall_mem_modify 0 inv.channelsIdle fun ch _ _ => (touches ch).2.1
    exact
      { inv with
        cacheMatchesStatus := by simp [CacheMatchesStatus, cached]
        timersMatchStatus := ⟨rfl, rfl⟩
        noStopInIdle := fun busy => Status.noConfusion busy
        timersCreated := fun _ => ⟨fs_created, fe_created⟩
        channelsIdle := idle
        lineIsLastDelivery := by simp [LineIsLastDelivery]
        noTimerMissed := fun x pending => by
          cases x
          · exact Bool.noConfusion pending
          · exact now_le_deadlineAfter _ _ _
        spacesCanonical := canonical }

theorem invariants_frameEnd {s : State} (inv : Invariants s) (pending : s.fe.pending = true) :
    Invariants (frameEndFire (clearPending .fe s)) := by
  obtain ⟨status, fs_idle⟩ := status_of_fe_pending inv pending
  obtain ⟨fs_created, fe_created⟩ := inv.timersCreated (by rw [status]; decide)
  have cached : s.cache.isSome = true := inv.cacheMatchesStatus.2 (by rw [status]; decide)
  rcases frameEndFire_effect (clearPending .fe s) with ⟨other, _⟩ | ⟨_, _, eq⟩ | ⟨_, _, eq⟩
  · exact absurd status other
  · rw [eq]
    exact invariants_stopGeneration inv (fe := { s.fe with pending := false }) fs_idle rfl _
  · rw [eq]
    exact
      { inv with
        cacheMatchesStatus := by simp [CacheMatchesStatus, cached]
        timersMatchStatus := ⟨rfl, rfl⟩
        noStopInIdle := fun busy => Status.noConfusion busy
        timersCreated := fun _ => ⟨fs_created, fe_created⟩
        lineIsLastDelivery := by simp [LineIsLastDelivery]
        noTimerMissed := fun x pending => by
          cases x
          · exact now_le_deadlineAfter _ _ _
          · exact Bool.noConfusion pending }

/-! ### Every step -/

theorem invariants_exec_decoded {w : OpWord} {i : Instr} {s t : State} (inv : Invariants s)
    (decoded : decode w = .ok i) (run : exec i s = .next t) : Invariants t := by
  obtain ⟨_, ⟨_, _, rfl⟩ | ⟨_, _, rfl⟩ | ⟨_, pending, _, rfl⟩ | ⟨_, pending, _, rfl⟩⟩ :=
    exec_decoded decoded run
  · exact { inv with }
  · exact { invariants_registerWrite inv _ _ with }
  · exact { invariants_frameStart inv pending with }
  · exact { invariants_frameEnd inv pending with }

/-- Settles O12: a step waits, or moves the clock within the lateness of every pending timer and runs a
decoded operation. -/
theorem stepKeepsTheInvariants : Obligations.StepKeepsTheInvariants := by
  intro s t inv next
  rcases step_decoded inv next with rfl | ⟨w, i, now, inbox, decoded, _, inTime, run⟩
  · exact inv
  · exact invariants_exec_decoded (invariants_at inv inbox inTime) decoded run

end Sys2Proof
end

section
/-! The DMA port (`spec/41_dma.md` R97, R99; `spec/20_memory.md` R41 to R43): what a write leaves in the
target spaces, and the memory the block writes. -/

namespace Sys2Proof

open Sys2Proof.Machine

/-! ### Reading a space after a change of one channel -/

theorem memRead_modify_unchanged {s t : State} {c : Nat} {f : Channel → Channel}
    (chan : t.chan = s.chan.modify c f) {c' a : Nat}
    (same : c' = c → ∀ ch, (f ch).space.read a = ch.space.read a) :
    t.memRead c' a = s.memRead c' a := by
  rw [State.memRead, chan, memRead_modify, State.memRead]
  congr 1
  funext ch
  split
  · next here => exact same here.symm ch
  · rfl

/-- A byte string stored in one channel's space leaves every byte outside its range. -/
theorem memRead_writeBytes_outside {s t : State} {c addr n : Nat} {f : Channel → Channel}
    {bytes : List Byte} (chan : t.chan = s.chan.modify c f) (length : bytes.length = n)
    (stored : ∀ ch, (f ch).space = ch.space.writeBytes addr bytes) {c' a : Nat}
    (out : c' ≠ c ∨ a < addr ∨ addr + n ≤ a) : t.memRead c' a = s.memRead c' a := by
  refine memRead_modify_unchanged chan fun here ch => ?_
  rw [stored ch]
  exact read_writeBytes_outside ch.space bytes (by rw [length]; tauto)

/-- A byte string stored in one channel's space is read back. -/
theorem memRead_writeBytes_inside {s t : State} {c addr : Nat} {f : Channel → Channel}
    {bytes : List Byte} (chan : t.chan = s.chan.modify c f) (inRange : c < s.chan.length)
    (stored : ∀ ch, (f ch).space = ch.space.writeBytes addr bytes) {j : Nat} {b : Byte}
    (at_j : bytes[j]? = some b) : t.memRead c (addr + j) = some b := by
  obtain ⟨bound, rfl⟩ := List.getElem?_eq_some_iff.1 at_j
  rw [State.memRead, chan, memRead_modify, List.getElem?_eq_getElem inRange]
  show (if c = c then (f s.chan[c]).space else s.chan[c].space).read (addr + j) = _
  rw [if_pos rfl, stored]
  exact read_writeBytes_inside _ addr bytes j bound

/-! ### `dma_write` in range (R97) -/

/-- A buffer that holds the bytes asked for needs no free ones. -/
theorem bufferBytes_of_le {buffer : List Byte} {length : Nat} (k : Nat)
    (enough : length ≤ buffer.length) : bufferBytes buffer length k = buffer.take length := by
  simp [bufferBytes, Nat.sub_eq_zero_of_le enough]

theorem padded_of_le {buffer : List Byte} {length : Nat} (s : State)
    (enough : length ≤ buffer.length) : padded buffer length s = s := by
  simp [padded, Nat.sub_eq_zero_of_le enough]

/-- Tables that differ in the spaces alone look the same to the block. -/
theorem blockView_congr {s : State} {chan chan' : List Channel} (answers answers' : List Bool)
    (draws draws' : Nat) (log log' : List LogEntry)
    (bare : chan.map (fun ch => { ch with space := [] }) =
      chan'.map fun ch => { ch with space := [] }) :
    blockView { s with chan := chan, memAnswers := answers, draws := draws, log := log } =
      blockView { s with chan := chan', memAnswers := answers', draws := draws', log := log' } := by
  simp only [blockView, bare]

theorem blockView_withResult_congr {s t : State} (r : Option Result)
    (same : blockView s = blockView t) : blockView (s.withResult r) = blockView (t.withResult r) :=
  congrArg (fun u : State => u.withResult r) same

/-- Two changes of a channel that both leave it idle and keep its enable flag look the same. -/
theorem bare_modify_congr (chan : List Channel) (c : Nat) {f : Channel → Channel}
    (idle : ∀ ch, (f ch).enable = ch.enable ∧ (f ch).status = .idle) :
    (chan.modify c f).map (fun ch => { ch with space := [] }) =
      (chan.modify c fun ch => { ch with status := .idle }).map fun ch => { ch with space := [] } := by
  rw [map_modify_of_view (g := fun ch => { ch with status := .idle }),
    map_modify_of_view (g := fun ch => { ch with status := .idle })]
  · exact fun _ => rfl
  · intro ch
    obtain ⟨enable, status⟩ := idle ch
    rw [enable, status]

/-- What `dma_write` in range answers and leaves: the channel idle, nothing changed outside the range,
the buffer in it when the environment answers `ok`, and one entry logged on a failure. -/
structure DmaOutcome (s : State) (channel addr length : Nat) (buffer : List Byte)
    (out : Result × State) : Prop where
  idle : out.2.chanStatus channel = some .idle
  outside : ∀ c a, c ≠ channel ∨ a < addr ∨ addr + length ≤ a → out.2.memRead c a = s.memRead c a
  copied : addr + length ≤ 2 ^ 64 → memAnswer s = true → out.1 = .ok ∧ out.2.log = s.log ∧
    ∀ j b, j < length → buffer[j]? = some b → out.2.memRead channel (addr + j) = some b
  failed : 2 ^ 64 < addr + length ∨ memAnswer s = false →
    out.1 = .error .dmaFailure ∧ out.2.log = s.log ++ [.dmaCopyFailed]
  past : 2 ^ 64 < addr + length → ∀ c a, out.2.memRead c a = s.memRead c a
  view : blockView out.2 =
    blockView { s with chan := s.chan.modify channel fun ch => { ch with status := .idle } }

theorem chanStatus_modify_idle {s t : State} {c : Nat} {f : Channel → Channel}
    (inRange : c < s.chan.length) (chan : t.chan = s.chan.modify c f)
    (idle : ∀ ch, (f ch).status = .idle) : t.chanStatus c = some .idle := by
  rw [State.chanStatus, chan, List.getElem?_modify, List.getElem?_eq_getElem inRange]
  simp [idle]

theorem dmaWrite_outcome {channel plane length : Nat} {buffer : List Byte} {s : State}
    (enough : length ≤ buffer.length) (channel_lt : channel < s.chan.length)
    (plane_lt : plane < maxPlanes) :
    DmaOutcome s channel (planeAddr channel plane s).toNat length buffer
      (dmaWrite channel buffer length plane s) := by
  rcases dmaWrite_eq channel buffer length plane s with ⟨out, _⟩ | ⟨_, _, far, eq⟩ |
    ⟨_, _, fits, eq⟩
  · omega
  · have far : 2 ^ 64 < (planeAddr channel plane s).toNat + length := far
    have same (c a : Nat) : (dmaRefused channel buffer length s).memRead c a = s.memRead c a :=
      memRead_modify_unchanged (c := channel) (f := fun ch => { ch with status := .idle }) rfl
        fun _ _ => rfl
    rw [eq]
    exact
      { idle := chanStatus_modify_idle channel_lt rfl fun _ => rfl
        outside := fun c a _ => same c a
        copied := fun near => absurd near (Nat.not_le.2 far)
        failed := fun _ => ⟨rfl, rfl⟩
        past := fun _ => same
        view := blockView_congr _ _ _ _ _ _ rfl }
  · have fits : (planeAddr channel plane s).toNat + length ≤ 2 ^ 64 := fits
    rw [eq, padded_of_le s enough]
    exact
      { idle := chanStatus_modify_idle channel_lt rfl fun _ => rfl
        outside := fun c a => memRead_writeBytes_outside rfl (dmaBytes_length _ _ _) fun _ => rfl
        copied := fun _ ok => by
          have bytes : dmaBytes buffer length s = buffer.take length := by
            rw [dmaBytes, leftBehind, padded_of_le s enough, if_pos ok, bufferBytes_of_le _ enough]
          refine ⟨if_pos ok, ?_, fun j b j_lt at_j => ?_⟩
          · simp [dmaWritten, padded_of_le s enough, ok]
          · refine memRead_writeBytes_inside rfl channel_lt (fun _ => rfl) ?_
            rw [bytes, List.getElem?_take_of_lt j_lt, at_j]
        failed := fun cause => by
          have fail : memAnswer s = false := cause.resolve_left (Nat.not_lt.2 fits)
          simp [dmaWritten, padded_of_le s enough, fail]
        past := fun far => absurd fits (Nat.not_le.2 far)
        view := blockView_congr _ _ _ _ _ _ (bare_modify_congr _ _ fun _ => ⟨rfl, rfl⟩) }

/-- Settles O55: the outcome of a call in range, and the test of the range. -/
theorem dmaWriteCopiesTheBuffer : Obligations.DmaWriteCopiesTheBuffer := by
  rintro channel plane addr length buffer s running enough rfl
  refine ⟨fun channel_lt plane_lt => ?_, fun out => ?_⟩
  · have done := dmaWrite_outcome (plane := plane) enough channel_lt plane_lt
    refine ⟨_, answering_running running, done.idle, done.outside, fun near ok => ?_, fun cause => ?_,
      done.past, blockView_withResult_congr _ done.view⟩
    · obtain ⟨answer, log, bytes⟩ := done.copied near ok
      exact ⟨congrArg some answer, log, bytes⟩
    · obtain ⟨answer, log⟩ := done.failed cause
      exact ⟨congrArg some answer, log⟩
  · have refused : dmaWrite channel buffer length plane s = (.error .invalidConfig, s) := if_pos out
    refine (answering_running running).trans ?_
    rw [refused]
    rfl

/-! ### `MemWrite` on its own (R99) -/

theorem memWriteOnItsOwn_whole (addr : Addr) (bytes : List Byte) (s : State) :
    memWriteOnItsOwn addr bytes.length bytes s =
      (if (memWrite primaryChannel addr bytes s).1 then .ok else .fail,
        (memWrite primaryChannel addr bytes s).2) := by
  simp [memWriteOnItsOwn]

/-- Settles O56: `MemWrite` is refused with nothing changed, or leaves its bytes in its range. -/
theorem memWriteAnswersAsTheEnvironment : Obligations.MemWriteAnswersAsTheEnvironment := by
  intro addr bytes s running channels
  refine ⟨_, answering_running running, ?_⟩
  rw [memWriteOnItsOwn_whole]
  rcases memWrite_eq primaryChannel addr bytes s with ⟨far, eq⟩ | ⟨fits, eq⟩ <;> rw [eq]
  · have far : 2 ^ 64 < addr.toNat + bytes.length := far
    exact ⟨fun _ _ _ => rfl, fun near => absurd near (Nat.not_le.2 far),
      fun near => absurd near (Nat.not_le.2 far), fun _ => rfl, rfl⟩
  · have fits : addr.toNat + bytes.length ≤ 2 ^ 64 := fits
    refine ⟨fun c a => memRead_writeBytes_outside rfl (leftBehind_length _ _) fun _ => rfl,
      fun _ ok => ⟨congrArg some (if_pos ok), fun j b at_j => ?_⟩,
      fun _ fail => congrArg some (if_neg (by simp [fail])),
      fun far => absurd fits (Nat.not_le.2 far), ?_⟩
    · have bytes_left : leftBehind bytes s = bytes := if_pos ok
      exact memRead_writeBytes_inside rfl channels (fun _ => rfl) (bytes_left.symm ▸ at_j)
    · have bare : (s.chan.modify primaryChannel fun ch =>
          { ch with space := ch.space.writeBytes addr.toNat (leftBehind bytes s) }).map
            (fun ch => { ch with space := [] }) = s.chan.map fun ch => { ch with space := [] } := by
        rw [map_modify_of_view (g := id)]
        · exact List.modify_id _ _
        · exact fun _ => rfl
      exact blockView_withResult_congr _
        (blockView_congr (s := s) _ s.memAnswers _ s.draws _ s.log bare)

/-! ### The frame's write (R106) -/

/-- The frame-start event of a due frame-start timer, with the DMA write of the frame. -/
theorem frameStartFire_frame {s : State} (status : s.status = .blanking)
    (go : s.stopRequested = false) :
    frameStartFire s =
      (dmaWrite primaryChannel (s.cache.getD []) s.cacheLen 0 (frameBegun s)).2.logged
        (if (dmaWrite primaryChannel (s.cache.getD []) s.cacheLen 0 (frameBegun s)).1 = .ok then []
          else [.frameLost]) := by
  rcases frameStartFire_eq s with ⟨other, _⟩ | ⟨_, stop, _⟩ | ⟨_, _, eq⟩
  · exact absurd status other
  · rw [go] at stop
    contradiction
  · exact eq

theorem frameBegun_memRead (s : State) (c a : Nat) : (frameBegun s).memRead c a = s.memRead c a :=
  memRead_congr _ _ (by simp [frameBegun]) c a

theorem frameBegun_log (s : State) : (frameBegun s).log = s.log := by simp [frameBegun]

theorem frameBegun_memAnswer (s : State) : memAnswer (frameBegun s) = memAnswer s :=
  memAnswer_congr (by simp [frameBegun]) (by simp [frameBegun])

/-- Settles O31: the outcome of the frame's `dma_write`, and the event's own log entry after a failure. -/
theorem frameStartWritesTheFrame : Obligations.FrameStartWritesTheFrame := by
  rintro s bytes addr running pending due status go channels cached latched rfl
  have fired := frameStartFire_frame (s := clearPending .fs s) status go
  have dma := dmaWrite_outcome (channel := primaryChannel) (plane := 0)
    (s := frameBegun (clearPending .fs s)) (le_refl bytes.length)
    (by simpa [frameBegun, primaryChannel] using channels) (by decide)
  have destination : planeAddr primaryChannel 0 (frameBegun (clearPending .fs s)) =
      planeAddress (s.word 0x0C#32) (s.word 0x08#32) := planeAddr_frameBegun _
  simp only [clearPending_cache, clearPending_cacheLen, cached, latched, Option.getD_some] at fired
  rw [destination] at dma
  generalize dmaWrite primaryChannel bytes bytes.length 0 (frameBegun (clearPending .fs s)) = out at *
  obtain ⟨answer, after⟩ := out
  obtain ⟨_, outside, copied, failed, past, _⟩ := dma
  simp only [frameBegun_memRead, frameBegun_log, frameBegun_memAnswer] at outside copied failed past
  refine ⟨_, exec_evFrameStart_due running pending due, ?_⟩
  rw [fired]
  refine ⟨outside, fun near ok => ?_, fun _ fail => ?_, fun far => ⟨past far, ?_⟩⟩
  · obtain ⟨rfl, log, bytesRead⟩ := copied near ok
    exact ⟨fun j b at_j => bytesRead j b (List.getElem?_eq_some_iff.1 at_j).1 at_j,
      (List.append_nil _).trans log⟩
  · obtain ⟨rfl, log⟩ := failed (.inr fail)
    exact (congrArg (· ++ [.frameLost]) log).trans (List.append_assoc _ _ _)
  · obtain ⟨rfl, log⟩ := failed (.inl far)
    exact (congrArg (· ++ [.frameLost]) log).trans (List.append_assoc _ _ _)

/-! ### Who writes memory (R41, R45) -/

theorem registerWrite_chan (off v : Word) (s : State) : (registerWrite off v s).2.chan = s.chan := by
  rcases registerWrite_effect off v s with ⟨_, eq⟩ | ⟨_, _, _, _, eq⟩ | ⟨_, _, _, _, _, eq⟩ |
    ⟨_, _, _, eq⟩ | ⟨_, _, _, eq⟩ | ⟨_, _, eq⟩ | ⟨_, _, eq⟩ <;> rw [eq] <;> rfl

theorem frameEndFire_chan (s : State) : (frameEndFire s).chan = s.chan := by
  rcases frameEndFire_effect s with ⟨_, eq⟩ | ⟨_, _, eq⟩ | ⟨_, _, eq⟩ <;> rw [eq]

/-- The frame-start event leaves every byte outside the frame's range. -/
theorem frameStartFire_memRead {s : State} {c a : Nat}
    (out : c ≠ 0 ∨ a < (planeAddress (s.word 0x0C#32) (s.word 0x08#32)).toNat ∨
      (planeAddress (s.word 0x0C#32) (s.word 0x08#32)).toNat + s.cacheLen ≤ a) :
    (frameStartFire s).memRead c a = s.memRead c a := by
  rcases frameStartFire_effect s with ⟨_, eq⟩ | ⟨_, _, eq⟩ |
    ⟨_, _, _, _, _, _, eq, ⟨same, _⟩ | ⟨touch, changed, touches⟩⟩ <;> rw [eq]
  · rfl
  · rfl
  · exact memRead_congr _ _ same c a
  · refine memRead_modify_unchanged changed fun here ch => ?_
    obtain ⟨_, _, same | ⟨bytes, length, _, written⟩⟩ := touches ch
    · rw [same]
    · rw [written]
      exact read_writeBytes_outside ch.space bytes (by rw [length]; tauto)

/-- Settles O49: every other decoded operation leaves the channel table. -/
theorem onlyFrameStartWritesMemory : Obligations.OnlyFrameStartWritesMemory := by
  intro w i s t decoded run c a out
  obtain ⟨_, ⟨_, _, rfl⟩ | ⟨_, _, rfl⟩ | ⟨start, _, _, rfl⟩ | ⟨_, _, _, rfl⟩⟩ :=
    exec_decoded decoded run
  · rfl
  · exact memRead_congr _ _ (registerWrite_chan _ _ s) c a
  · exact frameStartFire_memRead (s := clearPending .fs s) (out start)
  · exact memRead_congr _ _ (frameEndFire_chan (clearPending .fe s)) c a

end Sys2Proof
end

section
/-! The sequencer (`spec/42_frame_sequencer.md` R101 to R110): each arm of enable, disable, the timers,
the cache and the timer events, and the whole effects that follow. -/

namespace Sys2Proof

open Sys2Proof.Machine

/-! ### `create_timers`, `arm` and `raise_flag` (R105, R110, R112) -/

theorem createTimers_of_ready {s : State} (ready : TimersReady s) :
    createTimers s = (.ok, withTimers s) := by
  rcases createTimers_eq s with ⟨_, eq⟩ | ⟨unready, _⟩
  · exact eq
  · exact absurd ready unready

theorem createTimers_of_not_ready {s : State} (unready : ¬ TimersReady s) :
    createTimers s = (.error .resourceExhausted, s) := by
  rcases createTimers_eq s with ⟨ready, _⟩ | ⟨_, eq⟩
  · exact absurd ready unready
  · exact eq

/-- An operation that answers a result, its answer and its state known. -/
theorem answering_of_eq {op : State → Result × State} {s t : State} {r : Result}
    (running : s.halted = false) (eq : op s = (r, t)) :
    answering op s = .next (t.withResult (some r)) := by
  rw [answering_running running, eq]

/-- Settles O57: the two outcomes of `create_timers`. -/
theorem createTimersMakesTheHandles : Obligations.CreateTimersMakesTheHandles := fun _ running =>
  ⟨fun ready => answering_of_eq running (createTimers_of_ready ready),
    fun unready => answering_of_eq running (createTimers_of_not_ready unready)⟩

/-- Settles O59: the deadline is a natural number of nanoseconds. -/
theorem armSetsTheDeadline : Obligations.ArmSetsTheDeadline := fun _ _ running =>
  ⟨answerless_running running, answerless_running running⟩

/-- Settles O37: the OR-ed word is stored, driven and recorded. -/
theorem raiseFlagDeliversTheWord : Obligations.RaiseFlagDeliversTheWord := by
  intro m s running
  refine (answerless_running running).trans ?_
  rw [raiseFlag_eq]
  rfl

/-! ### `validate_dma_config` (R95, R96) -/

/-- Settles O54: the test of R95, and the view of R96 by channel and plane. -/
theorem validateDmaConfigAnswersAsStated : Obligations.ValidateDmaConfigAnswersAsStated := by
  refine fun channel planeCount s running => ⟨fun valid => ?_, fun invalid => ?_, planeLen_empty,
    planeLen_cached, rfl, fun c p other => ⟨if_neg other, if_neg fun ⟨primary, _⟩ => other primary⟩⟩
  · refine answering_of_eq (op := fun s => (validateDmaConfig channel planeCount s, s)) running ?_
    rw [validateDmaConfig_eq]
    exact congrArg (·, s) (if_pos valid)
  · refine answering_of_eq (op := fun s => (validateDmaConfig channel planeCount s, s)) running ?_
    rw [validateDmaConfig_eq]
    exact congrArg (·, s) (if_neg invalid)

/-! ### `alloc_cache` (R102) -/

theorem allocCache_of_cached {s : State} (cached : s.cache.isSome = true) :
    allocCache s = (.error .invalidState, s) :=
  if_pos cached

theorem allocCache_of_format {s : State} (empty : s.cache = none) (format : s.reg .outFormat ≠ 0#32) :
    allocCache s = (.error .invalidConfig, s) := by
  simp [allocCache, empty, bytesPerPixel, format, raise]

/-- The size of the frame whose cache is allocated, in bytes. -/
def frameBytes (s : State) : Nat := (s.word 0x1C#32).toNat * (s.word 0x20#32).toNat

theorem allocCache_of_refused {s : State} (empty : s.cache = none) (format : s.reg .outFormat = 0#32)
    (refused : allocAdmitted s.params (frameBytes s) = false) :
    allocCache s = (.error .resourceExhausted, s) := by
  rcases allocCache_eq s with ⟨cached, _⟩ | ⟨_, other, _⟩ | ⟨_, _, _, eq⟩ | ⟨_, _, admitted, _⟩
  · simp [empty] at cached
  · exact absurd format other
  · exact eq
  · exact absurd (refused.symm.trans admitted) (by simp)

theorem allocCache_of_admitted {s : State} (empty : s.cache = none) (format : s.reg .outFormat = 0#32)
    (admitted : allocAdmitted s.params (frameBytes s) = true) :
    allocCache s =
      (.ok, { s with cache := some (List.replicate (frameBytes s) sentinel),
                     cacheLen := frameBytes s }) := by
  rcases allocCache_eq s with ⟨cached, _⟩ | ⟨_, other, _⟩ | ⟨_, _, refused, _⟩ | ⟨_, _, _, eq⟩
  · simp [empty] at cached
  · exact absurd format other
  · exact absurd (refused.symm.trans admitted) (by simp)
  · exact eq

/-- When an allocation is refused. -/
theorem allocAdmitted_eq_false {p : Config.Params} {n : Nat}
    (cause : (∃ bound, p.maxCacheBytes = some bound ∧ bound < n) ∨ n ∈ p.allocRefused) :
    allocAdmitted p n = false := by
  rw [Bool.eq_false_iff, ne_eq, allocAdmitted_iff]
  rintro ⟨within, free⟩
  rcases cause with ⟨bound, max, beyond⟩ | refused
  · exact absurd (within bound max) (Nat.not_le.2 beyond)
  · exact free refused

/-- Settles O58: the four arms of `alloc_cache`. -/
theorem allocCacheFillsTheCache : Obligations.AllocCacheFillsTheCache := by
  rintro s size running rfl
  exact ⟨fun cached => answering_of_eq running (allocCache_of_cached cached),
    fun empty format => answering_of_eq running (allocCache_of_format empty format),
    fun empty format =>
      ⟨fun admitted => answering_of_eq running
          (allocCache_of_admitted empty format ((allocAdmitted_iff _ _).2 admitted)),
        fun cause => answering_of_eq running
          (allocCache_of_refused empty format (allocAdmitted_eq_false cause))⟩⟩

/-! ### `enable` (R101) -/

theorem enable_of_busy {s : State} (busy : s.status ≠ .idle) :
    enable s = (.error .invalidState, s) :=
  if_pos busy

theorem enable_of_invalid {s : State} (idle : s.status = .idle)
    (invalid : validateDmaConfig primaryChannel 1 s ≠ .ok) :
    enable s = (.error .invalidConfig, s) :=
  (if_neg (not_not.2 idle)).trans (if_pos invalid)

theorem enable_of_valid {s : State} (idle : s.status = .idle)
    (valid : validateDmaConfig primaryChannel 1 s = .ok) : enable s = startGeneration s :=
  (if_neg (not_not.2 idle)).trans (if_neg (not_not.2 valid))

theorem startGeneration_of_not_ready {s : State} (unready : ¬ TimersReady s) :
    startGeneration s = (.error .resourceExhausted, s) := by
  simp [startGeneration, createTimers_of_not_ready unready]

theorem startGeneration_of_alloc_error {s : State} {k : ErrorKind} (ready : TimersReady s)
    (failed : allocCache (withTimers s) = (.error k, withTimers s)) :
    startGeneration s = (.error k, withTimers s) := by
  simp [startGeneration, createTimers_of_ready ready, failed]

theorem startGeneration_of_admitted {s : State} (ready : TimersReady s) (empty : s.cache = none)
    (format : s.reg .outFormat = 0#32) (admitted : allocAdmitted s.params (frameBytes s) = true) :
    startGeneration s = (.ok, started s) := by
  simp only [startGeneration, createTimers_of_ready ready,
    allocCache_of_admitted (s := withTimers s) empty format admitted]
  rfl

theorem handlerWrite_enableOn {v : Word} (s : State) (on : v ≠ 0#32) :
    handlerWrite (regOffset .enable) v s = enable s :=
  if_pos on

theorem exec_wrEnableOn_error {v : Word} {s s1 : State} {k : ErrorKind} (running : s.halted = false)
    (on : v ≠ 0#32) (failed : enable s = (.error k, s1)) :
    exec (.wrEnableOn v) s = .next (s1.withResult (some (.error k))) := by
  have handler := (handlerWrite_enableOn s on).trans failed
  exact answering_of_eq running
    ((registerWrite_of_handler_error (by decide) (by simp [handler])).trans handler)

theorem exec_wrEnableOn_ok {v : Word} {s s1 : State} (running : s.halted = false) (on : v ≠ 0#32)
    (ok : enable s = (.ok, s1)) :
    exec (.wrEnableOn v) s = .next ((s1.setWord (regOffset .enable) v).withResult (some .ok)) :=
  answering_of_eq running
    (registerWrite_of_handler_ok (by decide) ((handlerWrite_enableOn s on).trans ok))

/-- Settles O25: validation, timers and allocation succeed, and the framework stores the raw value. -/
theorem enableStartsGeneration : Obligations.EnableStartsGeneration := by
  rintro v s size running on idle empty plane ready format rfl within free
  have valid := (validateDmaConfig_iff_planeReady empty).2 plane
  have admitted : allocAdmitted s.params (frameBytes s) = true :=
    (allocAdmitted_iff _ _).2 ⟨within, free⟩
  exact exec_wrEnableOn_ok running on
    ((enable_of_valid idle valid).trans (startGeneration_of_admitted ready empty format admitted))

/-- Settles O26: the arms of `enable` in the order of R101. -/
theorem enableErrorsComeInOrder : Obligations.EnableErrorsComeInOrder := by
  intro v s running on channels
  have allocFails {k : ErrorKind} (idle : s.status = .idle)
      (valid : validateDmaConfig primaryChannel 1 s = .ok) (ready : TimersReady s)
      (failed : allocCache (withTimers s) = (.error k, withTimers s)) :
      exec (.wrEnableOn v) s = .next ((withTimers s).withResult (some (.error k))) :=
    exec_wrEnableOn_error running on
      ((enable_of_valid idle valid).trans (startGeneration_of_alloc_error ready failed))
  refine ⟨fun busy => ?_, fun idle empty unready => ?_, fun idle empty plane unready => ?_,
    fun idle cached len addr ready => ?_, fun idle empty plane ready format => ?_,
    fun idle empty plane ready format cause => ?_⟩
  · exact exec_wrEnableOn_error running on (enable_of_busy busy)
  · exact exec_wrEnableOn_error running on
      (enable_of_invalid idle (mt (validateDmaConfig_iff_planeReady empty).1 unready))
  · exact exec_wrEnableOn_error running on
      ((enable_of_valid idle ((validateDmaConfig_iff_planeReady empty).2 plane)).trans
        (startGeneration_of_not_ready unready))
  · have valid := (validateDmaConfig_primary_iff s).2
      ⟨channels, addr, by rwa [planeLen_cached cached]⟩
    exact allocFails idle valid ready (allocCache_of_cached (s := withTimers s) cached)
  · exact allocFails idle ((validateDmaConfig_iff_planeReady empty).2 plane) ready
      (allocCache_of_format (s := withTimers s) empty format)
  · exact allocFails idle ((validateDmaConfig_iff_planeReady empty).2 plane) ready
      (allocCache_of_refused (s := withTimers s) empty format (allocAdmitted_eq_false cause))

/-- Settles O27: the format clause of the enable's errors. -/
theorem onlyFormatZeroIsSupported : Obligations.OnlyFormatZeroIsSupported := by
  refine ⟨rfl, fun f other => ⟨if_neg other,
    readsBackFromReset_reg (x := .outFormat) (by decide) (by decide) (by decide) f, ?_⟩⟩
  rintro v s running on idle empty plane ready rfl
  obtain ⟨_, _, _, _, format, _⟩ := enableErrorsComeInOrder v s running on plane.1
  exact ⟨_, format idle empty plane ready other, rfl, idle, empty, rfl⟩

/-! ### `disable` (R103) -/

/-- Settles O28: the two arms of `disable`, and the store of 0. -/
theorem disableRequestsAStop : Obligations.DisableRequestsAStop := by
  intro s running
  have disabled {s1 : State} (eq : disable s = (.ok, s1)) :
      exec .wrEnableOff s = .next ((s1.setWord (regOffset .enable) 0#32).withResult (some .ok)) :=
    answering_of_eq running (registerWrite_of_handler_ok (by decide) eq)
  exact ⟨fun idle => disabled (if_pos idle), fun busy => disabled (if_neg busy)⟩

/-! ### The timer events (R106, R107) -/

theorem frameStartFire_stop {s : State} (status : s.status = .blanking)
    (stop : s.stopRequested = true) : frameStartFire s = stopGeneration s :=
  (if_neg (not_not.2 status)).trans (if_pos stop)

theorem frameEndFire_stop {s : State} (status : s.status = .frameValid)
    (stop : s.stopRequested = true) :
    frameEndFire s = stopGeneration (s.logged (idleCheckEntries s)) :=
  (if_neg (not_not.2 status)).trans (if_pos stop)

/-- The state of a starting blanking (R107), but for the log of the idle check. -/
def blankingEntered (s : State) : State :=
  { s with
    status := .blanking
    bank := s.bank.setIfInBounds 12 (s.word 0x30#32 ||| 2#32)
    irqLine := s.word 0x30#32 ||| 2#32
    irqTrace := s.irqTrace ++ [s.word 0x30#32 ||| 2#32]
    fs := { s.fs with pending := true, deadline := s.now + (s.word 0x2C#32).toNat * 1000 } }

theorem frameEndFire_frame {s : State} (status : s.status = .frameValid)
    (go : s.stopRequested = false) :
    frameEndFire s = (blankingEntered s).logged (idleCheckEntries s) := by
  rcases frameEndFire_effect s with ⟨other, _⟩ | ⟨_, stop, _⟩ | ⟨_, _, eq⟩
  · exact absurd status other
  · exact absurd (go.symm.trans stop) (by simp)
  · exact eq

/-- Settles O32: the frame path of the frame-end event, its timer no longer pending. -/
theorem frameEndEntersBlanking : Obligations.FrameEndEntersBlanking := by
  intro s running pending due status go
  rw [exec_evFrameEnd_due running pending due,
    frameEndFire_frame (s := clearPending .fe s) status go]
  rfl

/-- Settles O33: both events take the stop transition before anything else. -/
theorem timerBoundaryTakesTheStop : Obligations.TimerBoundaryTakesTheStop := by
  refine fun s running stop => ⟨fun status pending due => ?_, fun status pending due => ?_⟩
  · rw [exec_evFrameStart_due running pending due,
      frameStartFire_stop (s := clearPending .fs s) status stop]
    rfl
  · rw [exec_evFrameEnd_due running pending due,
      frameEndFire_stop (s := clearPending .fe s) status stop]
    rfl

/-- Settles O29: the failed enable leaves the stop requested, and the boundary takes it. -/
theorem earlyEnableDoesNotCancelTheStop : Obligations.EarlyEnableDoesNotCancelTheStop := by
  intro v s running on busy stop
  have boundary := timerBoundaryTakesTheStop
    (s.withResult (some (.error .invalidState))) running stop
  obtain ⟨start, finish⟩ := boundary
  exact ⟨_, exec_wrEnableOn_error running on (enable_of_busy busy), rfl,
    fun status pending due => ⟨_, start status pending due, rfl, rfl, rfl, rfl⟩,
    fun status pending due => ⟨_, finish status pending due, rfl, rfl, rfl, rfl⟩⟩

end Sys2Proof
end

section
/-! Noninterference (`spec/60_exceptions.md` R121, R137): what the environment answers to `MemWrite`,
the target spaces, the count of free values and the log do not reach the block's state and outputs. -/

namespace Sys2Proof

open Sys2Proof.Machine

/-! ### The part of the state the block does not see -/

/-- What `blockView` leaves out, and the channel table it sees in part. -/
structure Unseen where
  chan : List Channel
  memAnswers : List Bool
  draws : Nat
  log : List LogEntry

/-- The state with another unseen part. -/
def withUnseen (u : Unseen) (s : State) : State :=
  { s with chan := u.chan, memAnswers := u.memAnswers, draws := u.draws, log := u.log }

/-- A channel table without its target spaces. -/
def bareTable (chan : List Channel) : List Channel := chan.map fun ch => { ch with space := [] }

/-- Two states with one block part differ in the unseen part alone. -/
theorem exists_unseen_of_blockView_eq {s s' : State} (same : blockView s = blockView s') :
    ∃ u, s' = withUnseen u s ∧ bareTable u.chan = bareTable s.chan := by
  refine ⟨⟨s'.chan, s'.memAnswers, s'.draws, s'.log⟩, ?_, (congrArg State.chan same).symm⟩
  cases s
  cases s'
  simp only [blockView, State.mk.injEq] at same
  simp only [withUnseen, State.mk.injEq, true_and, and_true]
  tauto

theorem blockView_withUnseen {u : Unseen} {s : State} (bare : bareTable u.chan = bareTable s.chan) :
    blockView (withUnseen u s) = blockView s :=
  blockView_congr (s := s) _ s.memAnswers _ s.draws _ s.log bare

theorem length_of_bareTable_eq {chan chan' : List Channel} (bare : bareTable chan = bareTable chan') :
    chan.length = chan'.length := by
  simpa [bareTable] using congrArg List.length bare

/-! ### Host accesses -/

/-- The answer and the state of an operation, the state with another unseen part. -/
def outUnseen (u : Unseen) (out : Result × State) : Result × State := (out.1, withUnseen u out.2)

theorem validateDmaConfig_withUnseen {u : Unseen} {s : State} (c n : Nat)
    (channels : u.chan.length = s.chan.length) :
    validateDmaConfig c n (withUnseen u s) = validateDmaConfig c n s := by
  unfold validateDmaConfig
  rw [show (withUnseen u s).chan.length = s.chan.length from channels]
  rfl

theorem createTimer_withUnseen (u : Unseen) (x : TimerId) (s : State) :
    createTimer x (withUnseen u s) = outUnseen u (createTimer x s) := by
  unfold createTimer
  rw [apply_ite (outUnseen u), apply_ite (outUnseen u)]
  cases x <;> rfl

theorem createTimers_withUnseen (u : Unseen) (s : State) :
    createTimers (withUnseen u s) = outUnseen u (createTimers s) := by
  unfold createTimers
  rw [createTimer_withUnseen]
  rcases createTimer .fs s with ⟨answer, s1⟩
  cases answer
  case ok => exact createTimer_withUnseen u .fe s1
  all_goals rfl

theorem allocCache_withUnseen (u : Unseen) (s : State) :
    allocCache (withUnseen u s) = outUnseen u (allocCache s) := by
  rcases allocCache_eq s with ⟨cached, eq⟩ | ⟨empty, format, eq⟩ | ⟨empty, format, refused, eq⟩ |
    ⟨empty, format, admitted, eq⟩ <;> rw [eq]
  · exact allocCache_of_cached (s := withUnseen u s) cached
  · exact allocCache_of_format (s := withUnseen u s) empty format
  · exact allocCache_of_refused (s := withUnseen u s) empty format refused
  · exact allocCache_of_admitted (s := withUnseen u s) empty format admitted

theorem startGeneration_withUnseen (u : Unseen) (s : State) :
    startGeneration (withUnseen u s) = outUnseen u (startGeneration s) := by
  unfold startGeneration
  rw [createTimers_withUnseen]
  rcases createTimers s with ⟨answer, s1⟩
  cases answer
  case ok =>
    simp only [outUnseen, allocCache_withUnseen]
    rcases allocCache s1 with ⟨answer, s2⟩
    cases answer <;> rfl
  all_goals rfl

theorem handlerWrite_withUnseen {u : Unseen} {s : State} (off v : Word)
    (channels : u.chan.length = s.chan.length) :
    handlerWrite off v (withUnseen u s) = outUnseen u (handlerWrite off v s) := by
  have enable_same : enable (withUnseen u s) = outUnseen u (enable s) := by
    unfold enable
    rw [validateDmaConfig_withUnseen _ _ channels, startGeneration_withUnseen,
      apply_ite (outUnseen u), apply_ite (outUnseen u)]
    rfl
  have disable_same : disable (withUnseen u s) = outUnseen u (disable s) :=
    (apply_ite (outUnseen u) (s.status = .idle) (.ok, releaseCache s)
      (.ok, { s with stopRequested := true })).symm
  have irq_same : irqHostWrite v (withUnseen u s) = outUnseen u (irqHostWrite v s) :=
    congrArg (Prod.mk Result.ok) (apply_ite (withUnseen u)
      (irqForwards (s.reg .irqReg) v = true) (setIrq v s) s).symm
  unfold handlerWrite
  rw [enable_same, disable_same, irq_same]
  simp only [apply_ite (outUnseen u)]
  rfl

theorem registerWrite_withUnseen {u : Unseen} {s : State} (off v : Word)
    (channels : u.chan.length = s.chan.length) :
    registerWrite off v (withUnseen u s) = outUnseen u (registerWrite off v s) := by
  unfold registerWrite
  rw [handlerWrite_withUnseen off v channels]
  split_ifs
  · rcases handlerWrite off v s with ⟨answer, s1⟩
    cases answer <;> rfl
  · rfl

/-! ### Timer events -/

/-- The block part of a starting frame (R106). -/
def frameEntered (s : State) : State :=
  { s with
    status := .frameValid
    bank := s.bank.setIfInBounds 12 (s.word 0x30#32 ||| 1#32)
    irqLine := s.word 0x30#32 ||| 1#32
    irqTrace := s.irqTrace ++ [s.word 0x30#32 ||| 1#32]
    fe := { s.fe with pending := true, deadline := s.now + (s.word 0x28#32).toNat * 1000 }
    chan := s.chan.modify 0 fun ch => { ch with status := .idle } }

/-- The frame-start event with the DMA write left out. -/
def frameStartBlock (s : State) : State :=
  if s.status ≠ .blanking then { s with halted := true }
  else if s.stopRequested then
    { s with status := .idle, cache := none, cacheLen := 0, stopRequested := false }
  else frameEntered s

theorem blockView_frameStartFire (s : State) :
    blockView (frameStartFire s) = blockView (frameStartBlock s) := by
  rcases frameStartFire_effect s with ⟨other, eq⟩ | ⟨status, stop, eq⟩ |
    ⟨status, go, chan, _, _, _, eq, touched⟩ <;> rw [eq, frameStartBlock]
  · rw [if_pos other]
  · rw [if_neg (not_not.2 status), if_pos stop]
  · rw [if_neg (not_not.2 status), if_neg (by simp [go])]
    refine blockView_congr (s := { frameEntered s with chan := s.chan }) _ s.memAnswers _ s.draws _
      s.log ?_
    rcases touched with ⟨rfl, empty⟩ | ⟨touch, rfl, touches⟩
    · rw [empty, List.modify_nil]
    · exact bare_modify_congr _ _ fun ch => ⟨(touches ch).1, (touches ch).2.1⟩

theorem frameStartBlock_frame {s : State} (status : s.status = .blanking)
    (go : s.stopRequested = false) : frameStartBlock s = frameEntered s :=
  (if_neg (not_not.2 status)).trans (if_neg (by simp [go]))

/-- Settles O30: the block part of the event is that of the event without its DMA write. -/
theorem frameStartEntersFrameValid : Obligations.FrameStartEntersFrameValid := by
  intro s running pending due status go
  refine ⟨_, exec_evFrameStart_due running pending due, ?_⟩
  have view := blockView_frameStartFire (clearPending .fs s)
  rw [frameStartBlock_frame (s := clearPending .fs s) status go] at view
  exact blockView_withResult_congr none view

theorem bareTable_modify_idle (chan : List Channel) :
    bareTable (chan.modify 0 fun ch => { ch with status := .idle }) =
      (bareTable chan).modify 0 fun ch => { ch with status := .idle } :=
  map_modify_of_view _ _ fun _ => rfl

theorem blockView_frameEntered_withUnseen {u : Unseen} {s : State}
    (bare : bareTable u.chan = bareTable s.chan) :
    blockView (frameEntered (withUnseen u s)) = blockView (frameEntered s) := by
  refine blockView_congr (s := frameEntered s) u.memAnswers s.memAnswers u.draws s.draws u.log s.log ?_
  exact (bareTable_modify_idle u.chan).trans
    ((congrArg _ bare).trans (bareTable_modify_idle s.chan).symm)

/-- The frame-start event acts on the block part. -/
theorem blockView_frameStartFire_withUnseen {u : Unseen} {s : State}
    (bare : bareTable u.chan = bareTable s.chan) :
    blockView (frameStartFire (withUnseen u s)) = blockView (frameStartFire s) := by
  by_cases status : s.status = .blanking
  · cases stop : s.stopRequested with
    | true =>
      rw [frameStartFire_stop status stop, frameStartFire_stop (s := withUnseen u s) status stop]
      exact blockView_withUnseen (s := stopGeneration s) bare
    | false =>
      rw [blockView_frameStartFire, blockView_frameStartFire s, frameStartBlock_frame status stop,
        frameStartBlock_frame (s := withUnseen u s) status stop]
      exact blockView_frameEntered_withUnseen bare
  · rw [frameStartFire_unexpected status, frameStartFire_unexpected (s := withUnseen u s) status]
    exact blockView_withUnseen (s := consistencyViolation s) bare

/-- The frame-end event acts on the block part: its idle check is logged only. -/
theorem blockView_frameEndFire_withUnseen {u : Unseen} {s : State}
    (bare : bareTable u.chan = bareTable s.chan) :
    blockView (frameEndFire (withUnseen u s)) = blockView (frameEndFire s) := by
  by_cases status : s.status = .frameValid
  · cases stop : s.stopRequested with
    | true =>
      rw [frameEndFire_stop status stop, frameEndFire_stop (s := withUnseen u s) status stop]
      exact blockView_withUnseen (s := stopGeneration s) bare
    | false =>
      rw [frameEndFire_frame status stop, frameEndFire_frame (s := withUnseen u s) status stop]
      exact blockView_withUnseen (s := blankingEntered s) bare
  · rw [frameEndFire_unexpected status, frameEndFire_unexpected (s := withUnseen u s) status]
    exact blockView_withUnseen (s := consistencyViolation s) bare

/-! ### Decoded operations and steps -/

theorem exec_decoded_withUnseen {w : OpWord} {i : Instr} {s t : State} {u : Unseen}
    (bare : bareTable u.chan = bareTable s.chan) (decoded : decode w = .ok i)
    (run : exec i s = .next t) :
    ∃ t', exec i (withUnseen u s) = .next t' ∧ blockView t = blockView t' := by
  rcases decode_ok decoded with ⟨_, rfl⟩ | ⟨_, rfl⟩ | ⟨_, _, rfl⟩ | ⟨_, _, rfl⟩
  · obtain ⟨running, rfl⟩ := exec_decodeRead_next.1 run
    refine ⟨_, exec_decodeRead_next.2 ⟨running, rfl⟩, ?_⟩
    rw [registerRead_congr (s := s) (t := withUnseen u s) rfl rfl]
    exact blockView_withResult_congr _ (blockView_withUnseen bare).symm
  · rw [exec_decodeWrite] at run ⊢
    obtain ⟨running, rfl⟩ := answering_next.1 run
    refine ⟨_, answering_running running, ?_⟩
    rw [registerWrite_withUnseen _ _ (length_of_bareTable_eq bare)]
    refine blockView_withResult_congr _ (blockView_withUnseen ?_).symm
    rw [registerWrite_chan, bare]
  · obtain ⟨running, pending, due, rfl⟩ := timerEvent_next.1 run
    exact ⟨_, timerEvent_next.2 ⟨running, pending, due, rfl⟩, blockView_withResult_congr none
      (blockView_frameStartFire_withUnseen (s := clearPending .fs s) bare).symm⟩
  · obtain ⟨running, pending, due, rfl⟩ := timerEvent_next.1 run
    exact ⟨_, timerEvent_next.2 ⟨running, pending, due, rfl⟩, blockView_withResult_congr none
      (blockView_frameEndFire_withUnseen (s := clearPending .fe s) bare).symm⟩

/-- Settles O50: the schedule reads the block part only, so the second state has the same turn. -/
theorem dmaResultDoesNotReachTheBlock : Obligations.DmaResultDoesNotReachTheBlock := by
  intro s s' t same next
  obtain ⟨u, rfl, bare⟩ := exists_unseen_of_blockView_eq same
  obtain ⟨running, ⟨inbox, timer, rfl⟩ | ⟨r, rest, i, inbox, decoded, first, run⟩ |
    ⟨x, timer, later, run⟩⟩ := step_next next
  · exact ⟨_, step_waiting (s := withUnseen u t) running inbox timer, same⟩
  · obtain ⟨t', run', view⟩ := exec_decoded_withUnseen
      (s := { s with now := arrivesAt r s, inbox := rest }) (u := u) bare decoded run
    exact ⟨t', (step_request (s := withUnseen u s) running inbox decoded first).trans run', view⟩
  · obtain ⟨t', run', view⟩ := exec_decoded_withUnseen
      (s := { s with now := firesAt x s }) (u := u) bare (decode_event x) run
    exact ⟨t', (step_timer (s := withUnseen u s) running timer later).trans run', view⟩

end Sys2Proof
end

section
/-! What the operations of the block do to its state over all decoded operations: the bank, the failed
accesses, the interrupt word and line, the status, the cache and the timers. -/

namespace Sys2Proof

open Sys2Proof.Machine

/-! ### The fields of `IRQ_REG` (R19, R54) -/

/-- A flag's accessor is its bit. -/
theorem irqField_flag (v : Word) {k : Nat} (bound : k < 32) :
    (irqField (BitVec.twoPow 32 k) k v != 0#32) = v.getLsbD k := by
  rw [irqField, BitVec.and_twoPow]
  cases v.getLsbD k with
  | false => simp
  | true =>
    have one : BitVec.twoPow 32 k >>> k ≠ 0#32 := by
      intro zero
      have bit := congrArg (fun w : Word => w.getLsbD 0) zero
      simp [bound] at bit
    simpa using one

theorem reservedBits_eq (v : Word) : reservedBits v = v >>> 3 := by
  have mask : irqReserved = BitVec.allOnes 32 <<< 3 := by decide
  apply BitVec.eq_of_getLsbD_eq
  intro i bound
  rw [reservedBits, irqField, mask]
  simp only [irqReservedShift, BitVec.getLsbD_ushiftRight, BitVec.getLsbD_and,
    BitVec.getLsbD_shiftLeft, BitVec.getLsbD_allOnes]
  by_cases inside : 3 + i < 32
  · simp [inside, show i < 32 by omega]
  · simp [BitVec.getLsbD_of_ge v (3 + i) (by omega)]

/-- Settles O41: each flag's mask is the power of two of its bit. -/
theorem irqFieldsAreTheStatedBits : Obligations.IrqFieldsAreTheStatedBits := fun v =>
  ⟨irqField_flag v (k := 0) (by decide), irqField_flag v (k := 1) (by decide),
    irqField_flag v (k := 2) (by decide), reservedBits_eq v, by decide⟩

/-- The forwarding mask tests bit 0 and bit 1. -/
theorem land_irqForwardMask (x : Word) :
    (x &&& irqForwardMask != 0#32) = (x.getLsbD 0 || x.getLsbD 1) := by
  have mask : irqForwardMask = BitVec.twoPow 32 0 ||| BitVec.twoPow 32 1 := by decide
  rw [mask, BitVec.and_or_distrib_left, BitVec.and_twoPow, BitVec.and_twoPow]
  cases x.getLsbD 0 <;> cases x.getLsbD 1 <;> decide

/-- R113: a write is forwarded when bit 0 or bit 1 changes. -/
theorem irqForwards_iff (old new : Word) :
    irqForwards old new = true ↔
      old.getLsbD 0 ≠ new.getLsbD 0 ∨ old.getLsbD 1 ≠ new.getLsbD 1 := by
  rw [irqForwards, land_irqForwardMask, BitVec.getLsbD_xor, BitVec.getLsbD_xor, Bool.or_eq_true,
    bne_iff_ne, bne_iff_ne]

theorem registerWrite_irqReg (v : Word) (s : State) :
    registerWrite (regOffset .irqReg) v s =
      (.ok, (if irqForwards (s.reg .irqReg) v then setIrq v s else s).setWord (regOffset .irqReg) v) :=
  registerWrite_of_handler_ok (by decide) rfl

/-- Settles O38: the word is stored in both cases, and driven when it is forwarded. -/
theorem irqWriteReplacesAndForwards : Obligations.IrqWriteReplacesAndForwards := by
  intro v s running
  have write : exec (.wrIrqReg v) s = _ := answering_of_eq running (registerWrite_irqReg v s)
  refine ⟨fun changed => ?_, fun ⟨start, finish⟩ => ?_⟩
  · have forwards : irqForwards (s.reg .irqReg) v = true := (irqForwards_iff _ _).2 changed
    rw [write, if_pos forwards]
    rfl
  · have quiet : ¬ irqForwards (s.reg .irqReg) v = true := fun forwards =>
      ((irqForwards_iff _ _).1 forwards).elim (absurd start) (absurd finish)
    rw [write, if_neg quiet]
    rfl

/-! ### The bank (R8) -/

/-- A host write fails and leaves the bank, or succeeds and stores its value at its offset. -/
theorem registerWrite_bank (off v : Word) (s : State) :
    (registerWrite off v s).2.bank = s.bank ∨
    (validOffset off = true ∧ (registerWrite off v s).1 = .ok ∧
      (registerWrite off v s).2.bank = (s.setWord off v).bank) := by
  rcases registerWrite_effect off v s with ⟨_, eq⟩ | ⟨_, _, _, _, eq⟩ | ⟨_, rfl, _, _, _, eq⟩ |
    ⟨_, rfl, _, eq⟩ | ⟨_, rfl, _, eq⟩ | ⟨rfl, _, eq⟩ | ⟨valid, _, eq⟩ <;> rw [eq]
  · exact .inl rfl
  · exact .inl rfl
  · exact .inr ⟨by decide, rfl, rfl⟩
  · exact .inr ⟨by decide, rfl, rfl⟩
  · exact .inr ⟨by decide, rfl, rfl⟩
  · exact .inr ⟨by decide, rfl, rfl⟩
  · exact .inr ⟨valid, rfl, rfl⟩

/-- A host write leaves every word but its own. -/
theorem registerWrite_word_other {off off' : Word} (v : Word) (s : State)
    (valid' : validOffset off' = true) (ne : off' ≠ off) :
    (registerWrite off v s).2.word off' = s.word off' := by
  rcases registerWrite_bank off v s with bank | ⟨valid, _, bank⟩
  · exact word_congr _ _ bank off'
  · exact (word_congr _ _ bank off').trans (word_setWord_other s v valid valid' ne)

/-! ### The interrupt state in a timer event (R106, R107, R112) -/

/-- The flag a timer event raises. -/
def flagOf : TimerId → Word
  | .fs => 1#32
  | .fe => 2#32

/-- The status in which a timer fires. -/
def phaseOf : TimerId → Status
  | .fs => .blanking
  | .fe => .frameValid

/-- The bank, the line and the trace are as they were. -/
structure IrqKept (s t : State) : Prop where
  bank : t.bank = s.bank
  line : t.irqLine = s.irqLine
  trace : t.irqTrace = s.irqTrace

/-- A flag was raised: the word stored, driven and recorded. -/
structure IrqRaised (m : Word) (s t : State) : Prop where
  bank : t.bank = s.bank.setIfInBounds 12 (s.word 0x30#32 ||| m)
  line : t.irqLine = s.word 0x30#32 ||| m
  trace : t.irqTrace = s.irqTrace ++ [s.word 0x30#32 ||| m]

/-- A timer event raises its flag on its frame path, and otherwise leaves the interrupt state. -/
theorem fireOf_irq (x : TimerId) (s : State) :
    IrqKept s (fireOf x s) ∨
    (s.status = phaseOf x ∧ s.stopRequested = false ∧ IrqRaised (flagOf x) s (fireOf x s)) := by
  cases x
  case fs =>
    rw [show fireOf .fs s = frameStartFire s from rfl]
    rcases frameStartFire_effect s with ⟨_, eq⟩ | ⟨_, _, eq⟩ | ⟨status, go, _, _, _, _, eq, _⟩ <;>
      rw [eq]
    · exact .inl ⟨rfl, rfl, rfl⟩
    · exact .inl ⟨rfl, rfl, rfl⟩
    · exact .inr ⟨status, go, rfl, rfl, rfl⟩
  case fe =>
    rw [show fireOf .fe s = frameEndFire s from rfl]
    rcases frameEndFire_effect s with ⟨_, eq⟩ | ⟨_, _, eq⟩ | ⟨status, go, eq⟩ <;> rw [eq]
    · exact .inl ⟨rfl, rfl, rfl⟩
    · exact .inl ⟨rfl, rfl, rfl⟩
    · exact .inr ⟨status, go, rfl, rfl, rfl⟩

/-- The three things a decoded operation can do: a read, a write, or the event of a timer. -/
theorem exec_decoded_cases {w : OpWord} {i : Instr} {s t : State} (decoded : decode w = .ok i)
    (run : exec i s = .next t) :
    (i = decodeRead (opOffset w) ∧ t = s.withResult (some (registerRead (opOffset w) s))) ∨
    (opKind w = kindWrite ∧ i = decodeWrite (opOffset w) (opData w) ∧
      t = (registerWrite (opOffset w) (opData w) s).2.withResult
        (some (registerWrite (opOffset w) (opData w) s).1)) ∨
    (∃ x, i = eventOf x ∧ (s.timer x).pending = true ∧ (s.timer x).deadline ≤ s.now ∧
      t = (fireOf x (clearPending x s)).withResult none) := by
  obtain ⟨_, ⟨_, read, eq⟩ | ⟨kind, write, eq⟩ | ⟨event, pending, due, eq⟩ |
    ⟨event, pending, due, eq⟩⟩ := exec_decoded decoded run
  · exact .inl ⟨read, eq⟩
  · exact .inr (.inl ⟨kind, write, eq⟩)
  · exact .inr (.inr ⟨.fs, event, pending, due, eq⟩)
  · exact .inr (.inr ⟨.fe, event, pending, due, eq⟩)

theorem clearPending_word (x : TimerId) (s : State) (off : Word) :
    (clearPending x s).word off = s.word off :=
  word_congr _ _ (clearPending_bank s x) off

/-- The interrupt state after the whole event of a timer. -/
theorem event_irq (x : TimerId) (s : State) :
    IrqKept s (fireOf x (clearPending x s)) ∨
    (s.status = phaseOf x ∧ s.stopRequested = false ∧
      IrqRaised (flagOf x) s (fireOf x (clearPending x s))) := by
  have fired := fireOf_irq x (clearPending x s)
  rw [clearPending_status, clearPending_stopRequested] at fired
  rcases fired with ⟨bank, line, trace⟩ | ⟨status, go, bank, line, trace⟩
  · exact .inl ⟨bank.trans (clearPending_bank s x), line.trans (clearPending_irqLine s x),
      trace.trans (clearPending_irqTrace s x)⟩
  · rw [clearPending_word, clearPending_bank] at bank
    rw [clearPending_word] at line
    rw [clearPending_word, clearPending_irqTrace] at trace
    exact .inr ⟨status, go, bank, line, trace⟩

/-- Settles O23: a read stores nothing, a write its word, an event `IRQ_REG`. -/
theorem bankWordsChangeOnlyAsStated : Obligations.BankWordsChangeOnlyAsStated := by
  refine ⟨word_reset, fun w i s t off decoded run valid => ?_⟩
  rcases exec_decoded_cases decoded run with ⟨_, rfl⟩ | ⟨kind, _, rfl⟩ | ⟨x, event, _, _, rfl⟩
  · exact .inl rfl
  · by_cases own : off = opOffset w
    · subst own
      rcases registerWrite_bank (opOffset w) (opData w) s with bank | ⟨_, ok, bank⟩
      · exact .inl (word_congr _ _ bank _)
      · exact .inr (.inl ⟨kind, rfl, congrArg some ok,
          (word_congr _ _ bank _).trans (word_setWord_same s _ valid)⟩)
    · exact .inl (registerWrite_word_other _ s valid own)
  · rcases event_irq x s with ⟨bank, _, _⟩ | ⟨_, _, bank, _, _⟩
    · exact .inl (word_congr _ _ bank off)
    · by_cases irq : off = 0x30#32
      · refine .inr (.inr ⟨irq, ?_⟩)
        cases x
        · exact .inl event
        · exact .inr event
      · exact .inl (word_of_bank_irq (t := fireOf x (clearPending x s)) bank valid irq)

/-! ### Failed accesses (R123) -/

/-- An error of a host write is one of four, and leaves everything but the `created` bits. -/
theorem registerWrite_error {off v : Word} {s s1 : State} {k : ErrorKind}
    (failed : registerWrite off v s = (.error k, s1)) :
    (k = .invalidAddress ∨ k = .invalidState ∨ k = .invalidConfig ∨ k = .resourceExhausted) ∧
      (s1 = s ∨ s1 = withTimers s) := by
  rcases registerWrite_cases off v s with ⟨_, eq⟩ |
    ⟨_, ⟨_, _, ⟨k', s2, enabled, eq⟩ | ⟨_, eq⟩⟩ | ⟨_, _, eq⟩ | ⟨_, eq⟩ | ⟨_, _, eq⟩⟩ <;>
    rw [eq] at failed
  · obtain ⟨answer, rfl⟩ := Prod.mk.inj failed
    exact ⟨.inl (Result.error.inj answer).symm, .inl rfl⟩
  · obtain ⟨answer, rfl⟩ := Prod.mk.inj failed
    obtain rfl := Result.error.inj answer
    rcases enable_eq s with ⟨_, _, _, _, _, _, ok⟩ | ⟨k'', kinds, eq | ⟨_, eq⟩⟩
    · exact absurd (congrArg Prod.fst (ok.symm.trans enabled)) (by simp)
    · obtain ⟨same, rfl⟩ := Prod.mk.inj (eq.symm.trans enabled)
      exact ⟨.inr (Result.error.inj same ▸ kinds), .inl rfl⟩
    · obtain ⟨same, rfl⟩ := Prod.mk.inj (eq.symm.trans enabled)
      exact ⟨.inr (Result.error.inj same ▸ kinds), .inr rfl⟩
  all_goals exact absurd (congrArg Prod.fst failed) (by simp)

/-- A read of an admitted offset answers data. -/
theorem registerRead_valid {off : Word} (s : State) (valid : validOffset off = true) :
    ∃ v, registerRead off s = .data v := by
  by_cases live : off = regOffset .outStatus
  · exact ⟨_, live ▸ registerRead_outStatus s⟩
  · exact ⟨_, registerRead_plain s valid live⟩

/-- Settles O24: only a read of an invalid offset and a failed write answer an error. -/
theorem failedAccessLeavesTheState : Obligations.FailedAccessLeavesTheState := by
  intro w i s t k decoded run failed
  rcases exec_decoded_cases decoded run with ⟨_, rfl⟩ | ⟨_, _, rfl⟩ | ⟨_, _, _, _, rfl⟩
  · have answer : registerRead (opOffset w) s = .error k := Option.some.inj failed
    by_cases valid : validOffset (opOffset w) = true
    · obtain ⟨v, data⟩ := registerRead_valid s valid
      exact absurd (data.symm.trans answer) (by simp)
    · have kind := Result.error.inj ((registerRead_invalid s valid).symm.trans answer)
      rw [answer]
      exact ⟨rfl, .inl kind.symm⟩
  · have answer : (registerWrite (opOffset w) (opData w) s).1 = .error k := Option.some.inj failed
    obtain ⟨kinds, left⟩ := registerWrite_error
      (s1 := (registerWrite (opOffset w) (opData w) s).2) (Prod.ext answer rfl)
    rw [answer]
    refine ⟨?_, kinds⟩
    rcases left with left | left <;> rw [left] <;> rfl
  · exact absurd failed (by simp)

/-! ### The interrupt word and line (R115, R126) -/

/-- The line moves in a host write only with a forwarded write of `IRQ_REG`. -/
theorem registerWrite_line (off v : Word) (s : State) :
    ((registerWrite off v s).2.irqLine = s.irqLine ∧ (registerWrite off v s).2.irqTrace = s.irqTrace) ∨
    (off = regOffset .irqReg ∧ (registerWrite off v s).2.irqLine = v ∧
      (registerWrite off v s).2.irqTrace = s.irqTrace ++ [v] ∧
      (registerWrite off v s).2.word 0x30#32 = v) := by
  rcases registerWrite_effect off v s with ⟨_, eq⟩ | ⟨_, _, _, _, eq⟩ | ⟨_, _, _, _, _, eq⟩ |
    ⟨_, _, _, eq⟩ | ⟨_, _, _, eq⟩ | ⟨irq, _, eq⟩ | ⟨_, _, eq⟩ <;> rw [eq]
  case inr.inr.inr.inr.inr.inl =>
    exact .inr ⟨irq, rfl, rfl, irqWord_of_bank (s := s) (t := { s with bank := _ }) rfl⟩
  all_goals exact .inl ⟨rfl, rfl⟩

/-- A host write that is not of `IRQ_REG` has another offset. -/
theorem offset_ne_irqReg {off v : Word} (other : ∀ v', decodeWrite off v ≠ .wrIrqReg v') :
    off ≠ regOffset .irqReg := by
  rintro rfl
  exact other v rfl

/-- Settles O39: a decoded operation keeps the word, replaces it by a host write, or raises a flag. -/
theorem flagsAreClearedOnlyByTheHost : Obligations.FlagsAreClearedOnlyByTheHost := by
  intro w i s t decoded run
  rcases exec_decoded_cases decoded run with ⟨_, rfl⟩ | ⟨_, rfl, rfl⟩ | ⟨x, event, _, _, rfl⟩
  · exact ⟨fun _ => ⟨fun _ set => set, fun changed => absurd rfl changed⟩, .inl ⟨rfl, rfl⟩⟩
  · refine ⟨fun other => ?_, ?_⟩
    · have same : (registerWrite (opOffset w) (opData w) s).2.word 0x30#32 = s.word 0x30#32 :=
        registerWrite_word_other _ s (by decide) (offset_ne_irqReg other).symm
      exact ⟨fun j set => (congrArg (BitVec.getLsbD · j) same).trans set,
        fun changed => absurd same changed⟩
    · rcases registerWrite_line (opOffset w) (opData w) s with kept | ⟨_, line, trace, word⟩
      · exact .inl kept
      · exact .inr ⟨line.trans word.symm, trace.trans (congrArg (s.irqTrace ++ [·]) word.symm)⟩
  · rcases event_irq x s with ⟨bank, line, trace⟩ | ⟨_, _, bank, line, trace⟩
    · have same := word_congr _ _ bank 0x30#32
      exact ⟨fun _ => ⟨fun j set => (congrArg (BitVec.getLsbD · j) same).trans set,
        fun changed => absurd same changed⟩, .inl ⟨line, trace⟩⟩
    · have word : ((fireOf x (clearPending x s)).withResult none).word 0x30#32 =
          s.word 0x30#32 ||| flagOf x := irqWord_of_bank (t := fireOf x (clearPending x s)) bank
      rw [word]
      refine ⟨fun _ => ⟨fun j set => ?_, fun _ => ⟨?_, trace⟩⟩, .inr ⟨line, trace⟩⟩
      · rw [BitVec.getLsbD_or, set, Bool.true_or]
      cases x
      · exact .inl ⟨event, rfl⟩
      · exact .inr ⟨event, rfl⟩

/-- Settles O40: the remaining operations are off the two frame paths and write another word. -/
theorem otherOperationsLeaveTheInterruptState : Obligations.OtherOperationsLeaveTheInterruptState := by
  intro w i s t decoded run other start finish
  rcases exec_decoded_cases decoded run with ⟨_, rfl⟩ | ⟨_, rfl, rfl⟩ | ⟨x, event, _, _, rfl⟩
  · exact ⟨rfl, rfl, rfl⟩
  · have off := offset_ne_irqReg other
    rcases registerWrite_line (opOffset w) (opData w) s with ⟨line, trace⟩ | ⟨irq, _⟩
    · exact ⟨registerWrite_word_other _ s (by decide) off.symm, line, trace⟩
    · exact absurd irq off
  · rcases event_irq x s with ⟨bank, line, trace⟩ | ⟨status, go, _⟩
    · exact ⟨word_congr _ _ bank _, line, trace⟩
    · have offPath : s.stopRequested = true ∨ s.status ≠ phaseOf x := by
        cases x
        · exact start event
        · exact finish event
      rcases offPath with stop | phase
      · exact absurd (go.symm.trans stop) (by simp)
      · exact absurd status phase

end Sys2Proof
end

section
/-! The state machine over every step (`spec/42_frame_sequencer.md` R100, R108), the cache
(`spec/20_memory.md` R48), and the timing of an undisturbed run (`spec/70_reset_and_hazards.md` R152). -/

namespace Sys2Proof

open Sys2Proof.Machine

/-! ### The status (R21, R100) -/

/-- The timer of the phase that a timer's event begins. -/
def nextTimer : TimerId → TimerId
  | .fs => .fe
  | .fe => .fs

/-- A host write moves the status only by a successful enable, from Idle to Blanking. -/
theorem registerWrite_status (off v : Word) (s : State) :
    (registerWrite off v s).2.status = s.status ∨
    (off = regOffset .enable ∧ v ≠ 0#32 ∧ s.status = .idle ∧ (registerWrite off v s).1 = .ok ∧
      (registerWrite off v s).2.status = .blanking ∧
      (registerWrite off v s).2.cache.isSome = true ∧
      (registerWrite off v s).2.fs.pending = true) := by
  rcases registerWrite_effect off v s with ⟨_, eq⟩ | ⟨_, _, _, _, eq⟩ | ⟨idle, enable, on, _, _, eq⟩ |
    ⟨_, _, _, eq⟩ | ⟨_, _, _, eq⟩ | ⟨_, _, eq⟩ | ⟨_, _, eq⟩ <;> rw [eq]
  case inr.inr.inl => exact .inr ⟨enable, on, idle, rfl, rfl, rfl, rfl⟩
  all_goals exact .inl rfl

/-- What a timer's event does after the pending bit is cleared: it halts the block, it stops in Idle, or
it begins the next phase. -/
theorem fireOf_cases (x : TimerId) (s : State) :
    (s.status ≠ phaseOf x ∧ fireOf x s = consistencyViolation s) ∨
    (s.status = phaseOf x ∧ s.stopRequested = true ∧
      ∃ entries, fireOf x s = stopGeneration (s.logged entries)) ∨
    (s.status = phaseOf x ∧ s.stopRequested = false ∧
      (fireOf x s).status = phaseOf (nextTimer x) ∧ (fireOf x s).stopRequested = false ∧
      (fireOf x s).cache = s.cache ∧ (fireOf x s).cacheLen = s.cacheLen ∧
      ((fireOf x s).timer (nextTimer x)).pending = true) := by
  by_cases status : s.status = phaseOf x
  · cases stop : s.stopRequested with
    | true =>
      refine .inr (.inl ⟨status, rfl, ?_⟩)
      cases x
      · exact ⟨[], (frameStartFire_stop status stop).trans (by simp [State.logged])⟩
      · exact ⟨_, frameEndFire_stop status stop⟩
    | false =>
      refine .inr (.inr ⟨status, rfl, ?_⟩)
      cases x
      · have view := blockView_frameStartFire s
        rw [frameStartBlock_frame status stop] at view
        have cache := congrArg State.cache view
        have len := congrArg State.cacheLen view
        exact ⟨congrArg State.status view, (congrArg State.stopRequested view).trans stop, cache, len,
          congrArg (·.fe.pending) view⟩
      · rw [show fireOf .fe s = _ from frameEndFire_frame status stop]
        exact ⟨rfl, stop, rfl, rfl, rfl⟩
  · refine .inl ⟨status, ?_⟩
    cases x
    · exact frameStartFire_unexpected status
    · exact frameEndFire_unexpected status

/-- Settles O42: a read moves nothing, a write only by an enable. -/
theorem onlyEnableAndTimersMoveTheStatus : Obligations.OnlyEnableAndTimersMoveTheStatus := by
  refine ⟨rfl, fun s running => answering_running running, fun w i s t decoded run moved => ?_⟩
  rcases exec_decoded_cases decoded run with ⟨_, rfl⟩ | ⟨_, rfl, rfl⟩ | ⟨x, event, _, _, rfl⟩
  · exact absurd rfl moved
  · rcases registerWrite_status (opOffset w) (opData w) s with same | ⟨enable, on, _⟩
    · exact absurd same moved
    · exact .inl ⟨_, enable ▸ decodeWrite_enableOn on⟩
  · cases x
    · exact .inr (.inl event)
    · exact .inr (.inr event)

/-- The arrows of the state machine's figure, with their conditions (R100). -/
def FollowsFigure (s t : State) : Prop :=
  t.status = s.status ∨
  (s.status = .idle ∧ t.status = .blanking ∧ t.result = some .ok ∧ t.cache.isSome = true ∧
    t.fs.pending = true) ∨
  (s.status = .blanking ∧ t.status = .frameValid ∧ s.stopRequested = false ∧
    s.fs.pending = true ∧ t.fe.pending = true) ∨
  (s.status = .frameValid ∧ t.status = .blanking ∧ s.stopRequested = false ∧
    s.fe.pending = true ∧ t.fs.pending = true) ∨
  (s.status = .blanking ∧ t.status = .idle ∧ s.stopRequested = true ∧ s.fs.pending = true ∧
    t.cache = none) ∨
  (s.status = .frameValid ∧ t.status = .idle ∧ s.stopRequested = true ∧ s.fe.pending = true ∧
    t.cache = none)

/-- The two arrows of a timer, one for each phase it may end. -/
theorem followsFigure_event {x : TimerId} {s : State} (pending : (s.timer x).pending = true) :
    FollowsFigure s ((fireOf x (clearPending x s)).withResult none) := by
  rcases fireOf_cases x (clearPending x s) with ⟨_, eq⟩ | ⟨status, stop, _, eq⟩ |
    ⟨status, go, status', _, _, _, pending'⟩
  · rw [eq]
    exact .inl (clearPending_status s x)
  · rw [clearPending_status] at status
    rw [clearPending_stopRequested] at stop
    rw [eq]
    cases x
    · exact .inr (.inr (.inr (.inr (.inl ⟨status, rfl, stop, pending, rfl⟩))))
    · exact .inr (.inr (.inr (.inr (.inr ⟨status, rfl, stop, pending, rfl⟩))))
  · rw [clearPending_status] at status
    rw [clearPending_stopRequested] at go
    cases x
    · exact .inr (.inr (.inl ⟨status, status', go, pending, pending'⟩))
    · exact .inr (.inr (.inr (.inl ⟨status, status', go, pending, pending'⟩)))

theorem followsFigure_exec {w : OpWord} {i : Instr} {s t : State} (decoded : decode w = .ok i)
    (run : exec i s = .next t) : FollowsFigure s t := by
  rcases exec_decoded_cases decoded run with ⟨_, rfl⟩ | ⟨_, _, rfl⟩ | ⟨x, _, pending, _, rfl⟩
  · exact .inl rfl
  · rcases registerWrite_status (opOffset w) (opData w) s with
      same | ⟨_, _, idle, ok, blanking, cached, pending⟩
    · exact .inl same
    · exact .inr (.inl ⟨idle, blanking, congrArg some ok, cached, pending⟩)
  · exact followsFigure_event pending

/-- Settles O43: the turn moves the clock and the inbox only, and a decoded operation follows the
figure. -/
theorem statusFollowsTheFigure : Obligations.StatusFollowsTheFigure := by
  intro s t next
  obtain ⟨_, ⟨_, _, rfl⟩ | ⟨r, rest, _, _, decoded, _, run⟩ | ⟨x, _, _, run⟩⟩ := step_next next
  · exact .inl rfl
  · exact followsFigure_exec (s := { s with now := arrivesAt r s, inbox := rest }) decoded run
  · exact followsFigure_exec (s := { s with now := firesAt x s }) (decode_event x) run

/-! ### The cache (R48) -/

/-- A host write keeps the cache, allocates one in Idle, or releases it in Idle. -/
theorem registerWrite_cache_cases (off v : Word) (s : State) :
    ((registerWrite off v s).2.cache = s.cache ∧
      (registerWrite off v s).2.cacheLen = s.cacheLen) ∨
    (s.status = .idle ∧ s.cache = none ∧ 1 ≤ frameBytes s ∧
      (registerWrite off v s).2.cache = some (List.replicate (frameBytes s) sentinel) ∧
      (registerWrite off v s).2.cacheLen = frameBytes s) ∨
    ((registerWrite off v s).2.status = .idle ∧ (registerWrite off v s).2.cache = none ∧
      (registerWrite off v s).2.cacheLen = 0) := by
  rcases registerWrite_effect off v s with ⟨_, eq⟩ | ⟨_, _, _, _, eq⟩ |
    ⟨idle, _, _, valid, empty, eq⟩ | ⟨idle, _, _, eq⟩ | ⟨_, _, _, eq⟩ | ⟨_, _, eq⟩ |
    ⟨_, _, eq⟩ <;> rw [eq]
  case inr.inr.inl => exact .inr (.inl ⟨idle, empty, frame_nonempty empty valid, rfl, rfl⟩)
  case inr.inr.inr.inl => exact .inr (.inr ⟨idle, rfl, rfl⟩)
  all_goals exact .inl ⟨rfl, rfl⟩

/-- Settles O44: an event keeps the cache or stops in Idle. -/
theorem cacheIsFixedWhileItExists : Obligations.CacheIsFixedWhileItExists := by
  intro s t inv next
  rcases step_decoded inv next with rfl | ⟨w, i, now, inbox, decoded, _, _, run⟩
  · exact .inl ⟨rfl, rfl⟩
  · rcases exec_decoded_cases decoded run with ⟨_, rfl⟩ | ⟨_, _, rfl⟩ | ⟨x, _, _, _, rfl⟩
    · exact .inl ⟨rfl, rfl⟩
    · rcases registerWrite_cache_cases (opOffset w) (opData w)
          { s with now := now, inbox := inbox } with
        kept | ⟨idle, empty, nonempty, cache, len⟩ | released
      · exact .inl kept
      · exact .inr (.inl ⟨idle, empty, _, nonempty, cache, len⟩)
      · exact .inr (.inr released)
    · rcases fireOf_cases x (clearPending x { s with now := now, inbox := inbox }) with
        ⟨_, eq⟩ | ⟨_, _, _, eq⟩ | ⟨_, _, _, _, cache, len, _⟩
      · rw [eq]
        exact .inl ⟨clearPending_cache _ x, clearPending_cacheLen _ x⟩
      · rw [eq]
        exact .inr (.inr ⟨rfl, rfl, rfl⟩)
      · exact .inl ⟨cache.trans (clearPending_cache _ x), len.trans (clearPending_cacheLen _ x)⟩

/-! ### The timers (R108, R143) -/

/-- A timer is pending exactly in its phase. -/
theorem pending_iff_phase {s : State} (timers : TimersMatchStatus s) (x : TimerId) :
    (s.timer x).pending = true ↔ s.status = phaseOf x := by
  obtain ⟨fs, fe⟩ := timers
  cases x
  · simp [fs, phaseOf]
  · simp [fe, phaseOf]

theorem phaseOf_inj {x y : TimerId} (same : phaseOf x = phaseOf y) : x = y := by
  cases x <;> cases y <;> simp_all [phaseOf]

theorem phaseOf_ne_idle (x : TimerId) : phaseOf x ≠ .idle := by cases x <;> decide

/-- Outside Idle no host write touches a timer. -/
theorem registerWrite_timer (off v : Word) {s : State} (busy : s.status ≠ .idle) (x : TimerId) :
    (registerWrite off v s).2.timer x = s.timer x := by
  rcases registerWrite_effect off v s with ⟨_, eq⟩ | ⟨idle, _⟩ | ⟨idle, _⟩ | ⟨idle, _⟩ |
    ⟨_, _, _, eq⟩ | ⟨_, _, eq⟩ | ⟨_, _, eq⟩
  case inr.inl | inr.inr.inl | inr.inr.inr.inl => exact absurd idle busy
  all_goals exact (congrArg (·.2.timer x) eq).trans (by cases x <;> rfl)

/-- Settles O46: a host write leaves the pending timer, and the only event that can happen is its own. -/
theorem pendingTimerKeepsItsDeadline : Obligations.PendingTimerKeepsItsDeadline := by
  intro s t x inv next pending
  have phase := (pending_iff_phase inv.timersMatchStatus x).1 pending
  rcases step_decoded inv next with rfl | ⟨w, i, now, inbox, decoded, _, inTime, run⟩
  · exact .inl ⟨rfl, inv.noTimerMissed x pending⟩
  · have clock : t.now = now := (leavesEnvironment_exec run).now
    have late : t.now ≤ (s.timer x).deadline + s.params.timerLateness :=
      clock.trans_le (inTime x pending)
    rcases exec_decoded_cases decoded run with ⟨_, rfl⟩ | ⟨_, _, rfl⟩ | ⟨y, _, fires, due, rfl⟩
    · exact .inl ⟨by cases x <;> rfl, late⟩
    · have kept := registerWrite_timer (opOffset w) (opData w)
        (s := { s with now := now, inbox := inbox })
        (fun idle => phaseOf_ne_idle x (phase.symm.trans idle)) x
      exact .inl ⟨by cases x <;> exact kept, late⟩
    · obtain rfl : x = y := phaseOf_inj (phase.symm.trans
        ((pending_iff_phase (s := { s with now := now, inbox := inbox })
          inv.timersMatchStatus y).1 fires))
      obtain ⟨own, _⟩ := fireOf_keeps x (clearPending x { s with now := now, inbox := inbox })
      rw [clearPending_timer_same] at own
      refine .inr ⟨?_, ?_, late⟩
      · cases x <;> exact own
      · cases x <;> exact due.trans clock.ge

/-! ### An undisturbed run (R152) -/

/-- The register that holds the duration of a timer's phase. -/
def durationReg : TimerId → Word
  | .fs => 0x2C#32
  | .fe => 0x28#32

/-- The duration of a timer's phase, of blanking `b` and of frame-valid `v`. -/
def durationOf (b v : Nat) : TimerId → Nat
  | .fs => b
  | .fe => v

/-- An undisturbed block in the phase of timer `x`, which fires at `due`. -/
structure Undisturbed (b v : Nat) (x : TimerId) (s : State) (due : Nat) : Prop where
  inv : Invariants s
  quiet : RunsUndisturbed s
  status : s.status = phaseOf x
  duration : ∀ y, durationOf b v y = (s.word (durationReg y)).toNat
  deadline : (s.timer x).deadline = due

/-- The frame path of a timer's event arms the timer of the next phase. -/
theorem fireOf_deadline {x : TimerId} {s : State} (status : s.status = phaseOf x)
    (go : s.stopRequested = false) :
    ((fireOf x s).timer (nextTimer x)).deadline =
      s.now + (s.word (durationReg (nextTimer x))).toNat * 1000 := by
  cases x
  · have view := blockView_frameStartFire s
    rw [frameStartBlock_frame status go] at view
    exact congrArg (·.fe.deadline) view
  · rw [show fireOf .fe s = _ from frameEndFire_frame status go]
    rfl

/-- A timer event stores no word but `IRQ_REG`. -/
theorem event_word (x : TimerId) (s : State) {off : Word} (valid : validOffset off = true)
    (other : off ≠ 0x30#32) : (fireOf x (clearPending x s)).word off = s.word off := by
  rcases event_irq x s with ⟨bank, _, _⟩ | ⟨_, _, bank, _, _⟩
  · exact word_congr _ _ bank off
  · exact word_of_bank_irq bank valid other

theorem pendingTimer_of_phase {x : TimerId} {s : State} (timers : TimersMatchStatus s)
    (status : s.status = phaseOf x) : pendingTimer s = some x := by
  obtain ⟨fs, fe⟩ := timers
  cases x <;> simp [pendingTimer, fs, fe, status, phaseOf]

@[simp] theorem withResult_timer (s : State) (r : Option Result) (x : TimerId) :
    (s.withResult r).timer x = s.timer x := by
  cases x <;> rfl

/-- The event of a timer in its phase, with no stop requested, begins the next phase. -/
theorem event_begins_next {x : TimerId} {s : State} (status : s.status = phaseOf x)
    (go : s.stopRequested = false) :
    (fireOf x (clearPending x s)).status = phaseOf (nextTimer x) ∧
      (fireOf x (clearPending x s)).stopRequested = false ∧
      ((fireOf x (clearPending x s)).timer (nextTimer x)).deadline =
        s.now + (s.word (durationReg (nextTimer x))).toNat * 1000 := by
  have status1 := (clearPending_status s x).trans status
  have go1 := (clearPending_stopRequested s x).trans go
  have armed := fireOf_deadline status1 go1
  rw [clearPending_now, clearPending_word] at armed
  rcases fireOf_cases x (clearPending x s) with ⟨other, _⟩ | ⟨_, stop, _⟩ | ⟨_, _, status', go', _⟩
  · exact absurd status1 other
  · exact absurd (go1.symm.trans stop) (by simp)
  · exact ⟨status', go', armed⟩

/-- At its deadline the timer of the phase fires, and the block is undisturbed in the next phase. -/
theorem undisturbed_event {b v : Nat} {x : TimerId} {s : State} {due : Nat}
    (run : Undisturbed b v x s due) (now : s.now = due) :
    ∃ t, exec (eventOf x) s = .next t ∧ t.now = due ∧
      Undisturbed b v (nextTimer x) t (due + durationOf b v (nextTimer x) * 1000) := by
  obtain ⟨inv, ⟨inbox, go, onTime⟩, status, duration, deadline⟩ := run
  have pending := (pending_iff_phase inv.timersMatchStatus x).2 status
  have event : exec (eventOf x) s = .next ((fireOf x (clearPending x s)).withResult none) :=
    exec_eventOf_next.2 ⟨inv.running, pending, by rw [deadline, now], rfl⟩
  have env := leavesEnvironment_exec event
  obtain ⟨status', go', armed⟩ := event_begins_next status go
  refine ⟨_, event, env.now.trans now,
    { inv := invariants_exec_decoded inv (decode_event x) event
      quiet := ⟨env.inbox.trans inbox, go',
        (congrArg Config.Params.timerLateness env.params).trans onTime⟩
      status := status'
      duration := fun y => ?_
      deadline := by rw [withResult_timer, armed, now, duration] }⟩
  rw [duration y]
  refine congrArg BitVec.toNat (event_word x s ?_ ?_).symm <;> cases y <;> decide

/-- Nothing changes in an undisturbed block until its timer is due. -/
theorem undisturbed_wait {b v : Nat} {x : TimerId} {s : State} {due : Nat}
    (run : Undisturbed b v x s due) :
    step s = exec (eventOf x) { s with now := due } ∧ Undisturbed b v x { s with now := due } due := by
  obtain ⟨inv, ⟨inbox, go, onTime⟩, status, duration, deadline⟩ := run
  have timers := inv.timersMatchStatus
  have fires : firesAt x s = due := by
    have reached := inv.noTimerMissed x ((pending_iff_phase timers x).2 status)
    rw [onTime, deadline] at reached
    rw [firesAt, onTime, deadline]
    exact max_eq_right reached
  have inTime (y : TimerId) (pending : (s.timer y).pending = true) :
      due ≤ (s.timer y).deadline + s.params.timerLateness := by
    obtain rfl : x = y := phaseOf_inj (status.symm.trans ((pending_iff_phase timers y).1 pending))
    rw [deadline]
    exact Nat.le_add_right _ _
  constructor
  · rw [step_timer inv.running (pendingTimer_of_phase timers status) fun _ _ waiting =>
      absurd (inbox.symm.trans waiting) (by simp), fires]
  · exact
      { inv := invariants_at inv s.inbox inTime
        quiet := ⟨inbox, go, onTime⟩
        status := status
        duration := duration
        deadline := by cases x <;> exact deadline }

/-- In an undisturbed run a step is the event of the phase's timer, at its deadline. -/
theorem undisturbed_step {b v : Nat} {x : TimerId} {s : State} {due : Nat}
    (run : Undisturbed b v x s due) :
    ∃ t, step s = .next t ∧ t.now = due ∧
      Undisturbed b v (nextTimer x) t (due + durationOf b v (nextTimer x) * 1000) := by
  obtain ⟨turn, run'⟩ := undisturbed_wait run
  rw [turn]
  exact undisturbed_event run' rfl

/-- A run goes on from the state its first step leaves. -/
theorem run_succ {s t : State} (k : Nat) (next : step s = .next t) :
    Host.Core.run Sys2Proof.core (k + 1) s = Host.Core.run Sys2Proof.core k t := by
  have core : Sys2Proof.core.step s = .next t := next
  simp only [Host.Core.run, core]

/-- Two steps of an undisturbed run: one period of `b + v` microseconds. -/
theorem undisturbed_period {b v : Nat} {s : State} {due : Nat}
    (run : Undisturbed b v .fs s due) :
    ∃ t u, step s = .next t ∧ t.now = due ∧ Undisturbed b v .fe t (due + v * 1000) ∧
      step t = .next u ∧ u.now = due + v * 1000 ∧
      Undisturbed b v .fs u (due + v * 1000 + b * 1000) := by
  obtain ⟨t, start, now, frame⟩ := undisturbed_step run
  obtain ⟨u, finish, now', blanking⟩ := undisturbed_step frame
  exact ⟨t, u, start, now, frame, finish, now', blanking⟩

/-- The instants of the `k`-th frame-start and the `k`-th frame-end. -/
theorem undisturbed_run {b v : Nat} (k : Nat) : ∀ {s : State} {e : Nat},
    Undisturbed b v .fs s (e + b * 1000) →
    (∃ t, Host.Core.run Sys2Proof.core (2 * k + 1) s = .next t ∧ t.status = .frameValid ∧
      t.now = e + 1000 * (b + k * (b + v)) ∧ t.fe.deadline = t.now + v * 1000) ∧
    (∃ t, Host.Core.run Sys2Proof.core (2 * k + 2) s = .next t ∧ t.status = .blanking ∧
      t.now = e + 1000 * ((k + 1) * (b + v)) ∧ t.fs.deadline = t.now + b * 1000) := by
  induction k with
  | zero =>
    intro s e run
    obtain ⟨t, u, start, now, frame, finish, now', blanking⟩ := undisturbed_period run
    refine ⟨⟨t, run_succ 0 start, frame.status, ?_, ?_⟩,
      ⟨u, (run_succ 1 start).trans (run_succ 0 finish), blanking.status, ?_, ?_⟩⟩
    · rw [now]; ring
    · rw [now]; exact frame.deadline
    · rw [now']; ring
    · rw [now']; exact blanking.deadline
  | succ k ih =>
    intro s e run
    obtain ⟨t, u, start, _, _, finish, _, blanking⟩ := undisturbed_period run
    have later : e + b * 1000 + v * 1000 + b * 1000 = (e + 1000 * (b + v)) + b * 1000 := by ring
    rw [later] at blanking
    obtain ⟨⟨t', start', status, now, deadline⟩, ⟨u', finish', status', now', deadline'⟩⟩ := ih blanking
    have shift (n : Nat) : Host.Core.run Sys2Proof.core (n + 2) s = Host.Core.run Sys2Proof.core n u :=
      (run_succ (n + 1) start).trans (run_succ n finish)
    refine ⟨⟨t', (shift _).trans start', status, ?_, deadline⟩,
      ⟨u', (shift _).trans finish', status', ?_, deadline'⟩⟩
    · rw [now]; ring
    · rw [now']; ring

/-- Settles O35: an enabled device that is not disturbed is in the blanking of an undisturbed run. -/
theorem undisturbedRunKeepsTheTiming : Obligations.UndisturbedRunKeepsTheTiming := by
  intro s e b v inv quiet status blank valid deadline k
  refine undisturbed_run k ⟨inv, quiet, status, fun y => ?_, deadline⟩
  cases y
  · exact blank
  · exact valid

end Sys2Proof
end
